-- ==== Sys2Proof/Word.lean ====
section
/-! DEFINITION. The byte, the one word type of the block (spec R7: "A byte is 8 bits, value 0 to 255"). -/

namespace Sys2Proof

/-- A byte: 8 bits, bit 0 the least significant (R7). -/
abbrev Byte := BitVec 8

/-- `[0x00] * n` (R7, R92, R94): a byte list of `n` zero bytes. -/
def zeroBytes (n : Nat) : List Byte := List.replicate n 0

end Sys2Proof
end

