-- ==== Sys2Proof/Config.lean ====
section
/-! DEFINITION. The configuration record of spec R5 (its type) and the free values of the model. The values of
R5's table are `Sys2Proof.Machine.params` in Machine/Params.lean. -/

namespace Sys2Proof

/-- Sub-kind of `E_IO` (R35, R150): 1 timeout, 2 other (disconnect, any other transport failure). -/
inductive IoKind where
  | timeout
  | other
  deriving DecidableEq, Repr, Inhabited

/-- What the environment does with one transport call (R35 failure, R163 abandonment by the host). The number says how
much of the call took effect before it stopped: the bytes of a write that left (R31, U7), the bytes a read
removed (R32, U6), for `set_baud` zero means the rate was not changed (R163). -/
inductive Verdict where
  | ok
  | fail (kind : IoKind) (done : Nat)
  | abandon (done : Nat)
  deriving DecidableEq, Repr, Inhabited

/-- Every number the block uses (R5), under the spec's names. `used by` as in R5. Shared operations take the record as
an argument, so that a claim can be stated for every value of the decided parameters. -/
structure Config where
  /-- `CMD_RESET`, R107 -/
  cmdReset : Byte
  /-- `CMD_MODE_COMMAND`, R101 -/
  cmdModeCommand : Byte
  /-- `CMD_MODE_DATA`, R101 -/
  cmdModeData : Byte
  /-- `CMD_SEARCH_ACCEL_ON`, R132 -/
  cmdSearchAccelOn : Byte
  /-- `CMD_SEARCH_ACCEL_OFF`, R132 -/
  cmdSearchAccelOff : Byte
  /-- `COMM`, R52 -/
  comm : Byte
  /-- `CONFIG`, R56 -/
  config : Byte
  /-- `CMD_SEARCH_ROM`, R132 -/
  cmdSearchRom : Byte
  /-- `CMD_SEARCH_ALARM`, R132 -/
  cmdSearchAlarm : Byte
  /-- `CMD_PULSE_TERMINATE`, R110 -/
  cmdPulseTerminate : Byte
  /-- FunctionSelect values, R53 -/
  fBit : Byte
  fSearchOff : Byte
  fSearchOn : Byte
  fReset : Byte
  fChmod : Byte
  /-- SpeedSelect values, R54 -/
  sStandard : Byte
  sFlex : Byte
  sOverdrive : Byte
  sPulse : Byte
  /-- ParameterSelect values, R57 -/
  pParmRead : Byte
  pSlew : Byte
  pPulse12V : Byte
  pPulse5V : Byte
  pWrite1Low : Byte
  pSampleOffset : Byte
  pActivePullupTime : Byte
  pBaudrate : Byte
  /-- default configuration values, R58 -/
  vSlew : Byte
  vWrite1Low : Byte
  vSampleOffset : Byte
  /-- `RESET_PRES_MASK`, R104 -/
  resetPresMask : Byte
  /-- `RESET_ID_MASK`, `RESET_ID_VALUE`, R105 -/
  resetIdMask : Byte
  resetIdValue : Byte
  /-- `CRC_POLY_REFLECTED`, R83 -/
  crcPolyReflected : Byte
  /-- `SETTLE_MS`, R107 -/
  settleMs : Nat
  /-- `IO_TIMEOUT_MS`, used by no rule (R35) -/
  ioTimeoutMs : Nat
  /-- `BAUD_NORMAL`, `BAUD_BREAK`, R107 -/
  baudNormal : Nat
  baudBreak : Nat
  /-- `DISCREPANCY_FAIL`, R133 -/
  discrepancyFail : Nat
  /-- `CMD_CHMOD_PULSE`, R110, R111 -/
  cmdChmodPulse : Byte
  /-- `BUS_SPEED`, R103 -/
  busSpeed : Byte
  /-- `BREAK_FILLER`, R107 -/
  breakFiller : List Byte
  /-- `PROBE_BAUD_READ`, `PROBE_BIT_TEST`, R107 -/
  probeBaudRead : Byte
  probeBitTest : Byte
  /-- `DETECT_B3_MASK`, `DETECT_B3_VALUE`, `DETECT_B4_MASK`, `DETECT_B4_VALUE`, R108 -/
  detectB3Mask : Byte
  detectB3Value : Byte
  detectB4Mask : Byte
  detectB4Value : Byte
  /-- `LEVEL_NORMAL_MASK`, `LEVEL_NORMAL_VALUE`, R110 -/
  levelNormalMask : Byte
  levelNormalValue : Byte
  /-- `PULSE5V_INFINITE`, R111 -/
  pulse5VInfinite : Byte
  /-- `LEVEL_SET_MASK`, `LEVEL_SET_VALUE`, R111 -/
  levelSetMask : Byte
  levelSetValue : Byte
  /-- `NOTIFY`, R67, R102 -/
  notify : Byte → Bool
  /-- `DETECT_RESETS_LEVEL`, R107 -/
  detectResetsLevel : Bool
  /-- ROM code length in bytes, 8 bits each, R61 -/
  romLength : Nat
  /-- frame length in bytes, R62 -/
  frameLength : Nat
  /-- search response length in bytes, R63 -/
  responseLength : Nat
  /-- detect response length in bytes, R107 -/
  detectLength : Nat
  /-- CRC table size in entries, R83 -/
  crcTableSize : Nat

/-- FREE VALUE (log entry 1): the verdict on the transport call with the given index, where the state's script of verdicts
has run out. Nothing in the spec constrains it (R35, R163). -/
opaque Config.freeVerdict : Nat → Verdict

/-- FREE VALUE (log entry 1): the byte at the given position of the receive direction, where the state fixes none.
"The bytes returned are an oracle's answer: nothing in this spec constrains them" (R32, U9). -/
opaque Config.freeByte : Nat → Byte

end Sys2Proof
end

