-- ==== Sys2Proof/Machine/Params.lean ====
section
/-! DEFINITION. The values of the configuration constants, the table of R5. -/

namespace Sys2Proof.Machine

/-- Default `NOTIFY` (R67, C1, D19): the literal `(b & 0x02) == 0x01`, which no byte satisfies. -/
def notifyLiteral (b : Byte) : Bool := b &&& 0x02#8 == 0x01#8

/-- R5. -/
def params : Config where
  cmdReset := 0xC1
  cmdModeCommand := 0xE3
  cmdModeData := 0xE1
  cmdSearchAccelOn := 0xB1
  cmdSearchAccelOff := 0xA1
  comm := 0x81
  config := 0x01
  cmdSearchRom := 0xF0
  cmdSearchAlarm := 0xEC
  cmdPulseTerminate := 0xF1
  fBit := 0x00
  fSearchOff := 0x20
  fSearchOn := 0x30
  fReset := 0x40
  fChmod := 0x60
  sStandard := 0x00
  sFlex := 0x04
  sOverdrive := 0x08
  sPulse := 0x0C
  pParmRead := 0x00
  pSlew := 0x10
  pPulse12V := 0x20
  pPulse5V := 0x30
  pWrite1Low := 0x40
  pSampleOffset := 0x50
  pActivePullupTime := 0x60
  pBaudrate := 0x70
  vSlew := 0x04
  vWrite1Low := 0x04
  vSampleOffset := 0x0A
  resetPresMask := 0x03
  resetIdMask := 0x1C
  resetIdValue := 0x0C
  crcPolyReflected := 0x8C
  settleMs := 2
  ioTimeoutMs := 200
  baudNormal := 9600
  baudBreak := 2400
  discrepancyFail := 63
  cmdChmodPulse := 0xED
  busSpeed := 0x00
  breakFiller := [0x00]
  probeBaudRead := 0x0F
  probeBitTest := 0x91
  detectB3Mask := 0xFF
  detectB3Value := 0x00
  detectB4Mask := 0xFC
  detectB4Value := 0x90
  levelNormalMask := 0xE0
  levelNormalValue := 0xE0
  pulse5VInfinite := 0x0E
  levelSetMask := 0x81
  levelSetValue := 0x00
  notify := notifyLiteral
  detectResetsLevel := false
  romLength := 8
  frameLength := 16
  responseLength := 17
  detectLength := 5
  crcTableSize := 256

/-- `CMD_BUS_RESET` = `COMM | F_RESET | BUS_SPEED` (R59). -/
def cmdBusReset (c : Config) : Byte := c.comm ||| c.fReset ||| c.busSpeed

/-- `CFG_SLEW` = `CONFIG | P_SLEW | V_SLEW` (R59). -/
def cfgSlew (c : Config) : Byte := c.config ||| c.pSlew ||| c.vSlew

/-- `CFG_WRITE1LOW` = `CONFIG | P_WRITE1LOW | V_WRITE1LOW` (R59). -/
def cfgWrite1Low (c : Config) : Byte := c.config ||| c.pWrite1Low ||| c.vWrite1Low

/-- `CFG_SAMPLEOFFSET` = `CONFIG | P_SAMPLEOFFSET | V_SAMPLEOFFSET` (R59). -/
def cfgSampleOffset (c : Config) : Byte := c.config ||| c.pSampleOffset ||| c.vSampleOffset

/-- `CFG_PULSE5V_INFINITE` = `CONFIG | P_PULSE5V | PULSE5V_INFINITE` (R59). -/
def cfgPulse5VInfinite (c : Config) : Byte := c.config ||| c.pPulse5V ||| c.pulse5VInfinite

/-- The five bytes of the detect probe, in the order sent (R107). -/
def probeBytes (c : Config) : List Byte :=
  [cfgSlew c, cfgWrite1Low c, cfgSampleOffset c, c.probeBaudRead, c.probeBitTest]

end Sys2Proof.Machine
end

