-- ==== Sys2Proof/Syntax.lean ====
section
/-! DEFINITION. The instructions: one constructor for every row of spec/opcode_table.json (the nine host operations of
R3 and R69, the reserved OPSEL codes, the bytes the block sends (R51 to R59, R62) and the items it receives or delivers
(R60 to R67)), and the request in which an instruction reaches the block. -/

namespace Sys2Proof

/-- `BUS.level` and the operand of `BUS_LEVEL` (R14, R27). -/
inductive Level where
  | normal
  | overdrive
  | strong5
  | program
  | break_
  deriving DecidableEq, Repr

/-- FunctionSelect (R53). The codes 0x10, 0x50 and 0x70 of the same three bits are not named (U11). -/
inductive FunctionSelect where
  | bit
  | searchOff
  | searchOn
  | reset
  | chmod
  deriving DecidableEq, Repr

/-- SpeedSelect (R54). -/
inductive SpeedSelect where
  | standard
  | flex
  | overdrive
  | pulse
  deriving DecidableEq, Repr

/-- ParameterSelect (R57). -/
inductive ParameterSelect where
  | parmRead
  | slew
  | pulse12V
  | pulse5V
  | write1Low
  | sampleOffset
  | activePullupTime
  | baudrate
  deriving DecidableEq, Repr

/-- The formats of R50. -/
inductive Format where
  | fixed
  | comm
  | config
  | data
  | frame16
  | resp17
  | status
  | resp5
  | confirm
  | notify
  | rom8
  | hostop
  deriving DecidableEq, Repr

/-- One constructor per row of spec/opcode_table.json, in the table's order. Byte lists stand byte 0 first (R7). -/
inductive Instr where
  -- host operations, R69
  | crcNew
  | crcCalc (byte : Byte)
  | encode (priorRom : List Byte) (lastDiscrepancy : Nat)
  | decode (resp17 : List Byte)
  | busReset
  | busDetect
  | busLevel (target : Level)
  | searchNew (alarmOnly : Bool)
  | searchNext
  -- OPSEL 9 to 15, reserved (R69, U1)
  | reserved9
  | reserved10
  | reserved11
  | reserved12
  | reserved13
  | reserved14
  | reserved15
  -- bytes the block sends, R59
  | cmdModeData
  | cmdModeCommand
  | cmdBusReset
  | cmdReset
  | cfgSlew
  | cfgWrite1Low
  | cfgSampleOffset
  | probeBaudRead
  | probeBitTest
  | cmdPulseTerminate
  | cmdChmodPulse
  | cfgPulse5VInfinite
  | cmdSearchRom
  | cmdSearchAlarm
  | cmdSearchAccelOn
  | cmdSearchAccelOff
  | breakFiller
  | frameByte (b : Byte)
  | commFormat (function : FunctionSelect) (speed : SpeedSelect)
  | configFormat (parameter : ParameterSelect) (valueCode : BitVec 3)
  -- what the block receives or delivers, R60 to R67
  | status (s : Byte)
  | resp5 (r : List Byte)
  | confirmNormal (c0 c1 : Byte)
  | confirmPulse (c0 : Byte)
  | resp17 (r : List Byte)
  | notification (b : Byte)
  | romCode (rom : List Byte)
  deriving DecidableEq, Repr

/-- What the decoder reads: the format (R50: the same byte value means different things in different formats) and the bytes
in wire order. What the host issues has format `hostop` (R69, R186); an item of any other format is the block's
own act and is no move of the host (log entry 6). -/
structure Request where
  format : Format
  bytes  : List Byte
  deriving DecidableEq, Repr

end Sys2Proof
end

