-- ==== Sys2Proof/WellFormed.lean ====
section
/-! DEFINITION. When an instruction is well formed: its operands are in the ranges the spec gives them (R69, R92, R94,
R62, R65, R61), and a generic COMM or CONFIG byte is not one that has a
row of its own. -/

namespace Sys2Proof

open Sys2Proof.Machine (params)

/-- A byte of the transmit frame: bits 1, 3, 5 and 7 are zero (R62, R92 corner case (e)). -/
def isFrameByte (b : Byte) : Bool := b &&& 0xAA#8 == 0#8

/-- The COMM compositions whose byte has a row of its own: 0xC1 (`CMD_BUS_RESET`), 0xED (`CMD_CHMOD_PULSE`),
0xB1 and 0xA1 (the accelerator bytes, R51) and 0xE1, which is `CMD_MODE_DATA` and would switch the chip's mode (R64). -/
def commHasOwnRow : FunctionSelect → SpeedSelect → Bool
  | .reset, .standard => true
  | .chmod, .pulse => true
  | .chmod, .standard => true
  | .searchOn, .standard => true
  | .searchOff, .standard => true
  | _, _ => false

/-- The CONFIG compositions whose byte has a row of its own (R59): 0x15, 0x45, 0x5B, 0x0F, 0x3F. -/
def configHasOwnRow : ParameterSelect → BitVec 3 → Bool
  | .slew, v => v == 2#3
  | .write1Low, v => v == 2#3
  | .sampleOffset, v => v == 5#3
  | .parmRead, v => v == 7#3
  | .pulse5V, v => v == 7#3
  | .pulse12V, _ => false
  | .activePullupTime, _ => false
  | .baudrate, _ => false

/-- Well-formedness of an instruction's operands. -/
def Instr.wellFormed : Instr → Bool
  | .encode rom ld => rom.length == params.romLength && decide (ld ≤ 8 * params.romLength)
  | .decode resp => resp.length == params.responseLength
  | .frameByte b => isFrameByte b
  | .commFormat f sp => !commHasOwnRow f sp
  | .configFormat p v => !configHasOwnRow p v
  | .resp5 r => r.length == params.detectLength
  | .resp17 r => r.length == params.responseLength
  | .romCode rom => rom.length == params.romLength
  | .crcNew | .crcCalc _ | .busReset | .busDetect | .busLevel _ | .searchNew _ | .searchNext => true
  | .reserved9 | .reserved10 | .reserved11 | .reserved12 | .reserved13 | .reserved14 | .reserved15 => true
  | .cmdModeData | .cmdModeCommand | .cmdBusReset | .cmdReset | .cfgSlew | .cfgWrite1Low | .cfgSampleOffset => true
  | .probeBaudRead | .probeBitTest | .cmdPulseTerminate | .cmdChmodPulse | .cfgPulse5VInfinite => true
  | .cmdSearchRom | .cmdSearchAlarm | .cmdSearchAccelOn | .cmdSearchAccelOff | .breakFiller => true
  | .status _ | .confirmNormal _ _ | .confirmPulse _ | .notification _ => true

end Sys2Proof
end

