-- ==== Sys2Proof/Decode.lean ====
section
/-! DEFINITION. The decoder, total on any request, rejecting by name; after it the encoder; and the reading of a word of
spec/opcode_table.json. Layout of a host operation (R69, programs P1 and P7): one byte holding OPSEL, then the operand
bytes in the order of R69. -/

namespace Sys2Proof

open Sys2Proof.Machine (params cmdBusReset cfgSlew cfgWrite1Low cfgSampleOffset cfgPulse5VInfinite)

/-- Why a request is no instruction. -/
inductive Reject where
  /-- no byte at all, or not as many bytes as the item has -/
  | wrongLength
  /-- the bits of the first byte above the 4 bits of OPSEL are not zero (R69) -/
  | opselTooWide
  /-- an operand outside its range: `last_discrepancy` above 64, a target 5 to 7, a Boolean above 1 (U2, U3, D30) -/
  | operandOutOfRange
  /-- a byte that is no item of its format (R51, R59) -/
  | notInTable
  /-- a COMM byte whose function field is 0x10, 0x50 or 0x70 (R53, U11) -/
  | unnamedFunction
  deriving DecidableEq, Repr

/-! ### The composed bytes -/

/-- FunctionSelect values (R53). -/
def FunctionSelect.value (c : Config) : FunctionSelect → Byte
  | .bit => c.fBit
  | .searchOff => c.fSearchOff
  | .searchOn => c.fSearchOn
  | .reset => c.fReset
  | .chmod => c.fChmod

/-- SpeedSelect values (R54). -/
def SpeedSelect.value (c : Config) : SpeedSelect → Byte
  | .standard => c.sStandard
  | .flex => c.sFlex
  | .overdrive => c.sOverdrive
  | .pulse => c.sPulse

/-- ParameterSelect values (R57). -/
def ParameterSelect.value (c : Config) : ParameterSelect → Byte
  | .parmRead => c.pParmRead
  | .slew => c.pSlew
  | .pulse12V => c.pPulse12V
  | .pulse5V => c.pPulse5V
  | .write1Low => c.pWrite1Low
  | .sampleOffset => c.pSampleOffset
  | .activePullupTime => c.pActivePullupTime
  | .baudrate => c.pBaudrate

/-- R52: `byte = COMM | function | speed | polarity`, with no polarity bit (R55). -/
def commByte (c : Config) (f : FunctionSelect) (sp : SpeedSelect) : Byte := c.comm ||| f.value c ||| sp.value c

/-- R56: `byte = CONFIG | parameter | value`, the value code in bits 3 to 1. -/
def configByte (c : Config) (p : ParameterSelect) (v : BitVec 3) : Byte :=
  c.config ||| p.value c ||| (v.setWidth 8 <<< 1)

/-! ### The decoder -/

/-- The codes of R27. -/
def Level.code : Level → BitVec 3
  | .normal => 0
  | .overdrive => 1
  | .strong5 => 2
  | .program => 3
  | .break_ => 4

/-- R27: "5 to 7 are not values of the register". -/
def Level.ofByte (b : Byte) : Except Reject Level :=
  match b.toNat with
  | 0 => .ok .normal
  | 1 => .ok .overdrive
  | 2 => .ok .strong5
  | 3 => .ok .program
  | 4 => .ok .break_
  | _ => .error .operandOutOfRange

/-- R27: false 0, true 1. -/
def boolOfByte (b : Byte) : Except Reject Bool :=
  match b.toNat with
  | 0 => .ok false
  | 1 => .ok true
  | _ => .error .operandOutOfRange

/-- An item without operands is complete at once. -/
def nullary (i : Instr) (rest : List Byte) : Except Reject Instr :=
  if rest.isEmpty then .ok i else .error .wrongLength

/-- `ENCODE` operands: 8 ROM bytes, then `last_discrepancy` (P7), 0 to 64 (U2). -/
def decodeEncode (rest : List Byte) : Except Reject Instr :=
  if rest.length != params.romLength + 1 then .error .wrongLength
  else if 8 * params.romLength < (rest.getD params.romLength 0).toNat then .error .operandOutOfRange
  else .ok (.encode (rest.take params.romLength) (rest.getD params.romLength 0).toNat)

/-- Host operations by OPSEL (R69). -/
def decodeHostop : List Byte → Except Reject Instr
  | [] => .error .wrongLength
  | op :: rest =>
    match op.toNat with
    | 0 => nullary .crcNew rest
    | 1 => match rest with
      | [b] => .ok (.crcCalc b)
      | _ => .error .wrongLength
    | 2 => decodeEncode rest
    | 3 => if rest.length == params.responseLength then .ok (.decode rest) else .error .wrongLength
    | 4 => nullary .busReset rest
    | 5 => nullary .busDetect rest
    | 6 => match rest with
      | [b] => (Level.ofByte b).map .busLevel
      | _ => .error .wrongLength
    | 7 => match rest with
      | [b] => (boolOfByte b).map .searchNew
      | _ => .error .wrongLength
    | 8 => nullary .searchNext rest
    | 9 => nullary .reserved9 rest
    | 10 => nullary .reserved10 rest
    | 11 => nullary .reserved11 rest
    | 12 => nullary .reserved12 rest
    | 13 => nullary .reserved13 rest
    | 14 => nullary .reserved14 rest
    | 15 => nullary .reserved15 rest
    | _ => .error .opselTooWide

/-- FIXED bytes (R51). -/
def decodeFixed (b : Byte) : Except Reject Instr :=
  if b = params.cmdModeData then .ok .cmdModeData
  else if b = params.cmdModeCommand then .ok .cmdModeCommand
  else if b = params.cmdReset then .ok .cmdReset
  else if b = params.cmdPulseTerminate then .ok .cmdPulseTerminate
  else if b = params.cmdSearchAccelOn then .ok .cmdSearchAccelOn
  else if b = params.cmdSearchAccelOff then .ok .cmdSearchAccelOff
  else .error .notInTable

/-- The function field, bits 6 to 4 of a COMM byte (R52, R53). -/
def FunctionSelect.ofField (v : Byte) : Except Reject FunctionSelect :=
  if v = params.fBit then .ok .bit
  else if v = params.fSearchOff then .ok .searchOff
  else if v = params.fSearchOn then .ok .searchOn
  else if v = params.fReset then .ok .reset
  else if v = params.fChmod then .ok .chmod
  else .error .unnamedFunction

/-- The speed field, bits 3 to 2 of a COMM byte (R52, R54). -/
def SpeedSelect.ofField (v : Byte) : SpeedSelect :=
  if v = params.sStandard then .standard
  else if v = params.sFlex then .flex
  else if v = params.sOverdrive then .overdrive
  else .pulse

/-- The parameter field, bits 6 to 4 of a CONFIG byte (R56, R57). -/
def ParameterSelect.ofField (v : Byte) : ParameterSelect :=
  if v = params.pParmRead then .parmRead
  else if v = params.pSlew then .slew
  else if v = params.pPulse12V then .pulse12V
  else if v = params.pPulse5V then .pulse5V
  else if v = params.pWrite1Low then .write1Low
  else if v = params.pSampleOffset then .sampleOffset
  else if v = params.pActivePullupTime then .activePullupTime
  else .baudrate

/-- A COMM byte without a row of its own: bit 7 and bit 0 as in `COMM`, bit 1 clear (R52). -/
def decodeCommFields (b : Byte) : Except Reject Instr :=
  if b &&& 0x83#8 = params.comm then
    (FunctionSelect.ofField (b &&& 0x70#8)).map fun f => .commFormat f (SpeedSelect.ofField (b &&& 0x0C#8))
  else .error .notInTable

/-- COMM bytes: those with a row of their own first (R51, R59), then the fields of R52. `CMD_MODE_DATA` is a FIXED byte, and
no COMM item. -/
def decodeComm (b : Byte) : Except Reject Instr :=
  if b = cmdBusReset params then .ok .cmdBusReset
  else if b = params.probeBitTest then .ok .probeBitTest
  else if b = params.cmdChmodPulse then .ok .cmdChmodPulse
  else if b = params.cmdSearchAccelOn then .ok .cmdSearchAccelOn
  else if b = params.cmdSearchAccelOff then .ok .cmdSearchAccelOff
  else if b = params.cmdModeData then .error .notInTable
  else decodeCommFields b

/-- A CONFIG byte without a row of its own: bit 7 and bit 0 as in `CONFIG` (R56). -/
def decodeConfigFields (b : Byte) : Except Reject Instr :=
  if b &&& 0x81#8 = params.config then
    .ok (.configFormat (ParameterSelect.ofField (b &&& 0x70#8)) (b.extractLsb' 1 3))
  else .error .notInTable

/-- CONFIG bytes: those with a row of their own first (R59), then the fields of R56. -/
def decodeConfig (b : Byte) : Except Reject Instr :=
  if b = cfgSlew params then .ok .cfgSlew
  else if b = cfgWrite1Low params then .ok .cfgWrite1Low
  else if b = cfgSampleOffset params then .ok .cfgSampleOffset
  else if b = params.probeBaudRead then .ok .probeBaudRead
  else if b = cfgPulse5VInfinite params then .ok .cfgPulse5VInfinite
  else decodeConfigFields b

/-- The search command bytes (R59, R64). -/
def decodeSearchCommand (b : Byte) : Except Reject Instr :=
  if b = params.cmdSearchRom then .ok .cmdSearchRom
  else if b = params.cmdSearchAlarm then .ok .cmdSearchAlarm
  else .error .notInTable

/-- One byte of the transmit frame (R62). -/
def decodeFrameByte (b : Byte) : Except Reject Instr :=
  if isFrameByte b then .ok (.frameByte b) else .error .notInTable

/-- A one-byte item. -/
def oneByte (f : Byte → Except Reject Instr) : List Byte → Except Reject Instr
  | [b] => f b
  | _ => .error .wrongLength

/-- DATA items with a row (R59): the break filler, a byte list, and the search command bytes. -/
def decodeData (bs : List Byte) : Except Reject Instr :=
  if bs = params.breakFiller then .ok .breakFiller else oneByte decodeSearchCommand bs

/-- A list of exactly `n` bytes. -/
def nBytes (n : Nat) (f : List Byte → Instr) (bs : List Byte) : Except Reject Instr :=
  if bs.length == n then .ok (f bs) else .error .wrongLength

/-- CONFIRM is 2 bytes after a change to Normal and 1 byte after any other change (R66). -/
def decodeConfirm : List Byte → Except Reject Instr
  | [c0] => .ok (.confirmPulse c0)
  | [c0, c1] => .ok (.confirmNormal c0 c1)
  | _ => .error .wrongLength

/-- The decoder: total, one case per format of R50. -/
def decode (r : Request) : Except Reject Instr :=
  match r.format with
  | .hostop => decodeHostop r.bytes
  | .fixed => oneByte decodeFixed r.bytes
  | .comm => oneByte decodeComm r.bytes
  | .config => oneByte decodeConfig r.bytes
  | .data => decodeData r.bytes
  | .frame16 => oneByte decodeFrameByte r.bytes
  | .status => oneByte (fun b => .ok (.status b)) r.bytes
  | .resp5 => nBytes params.detectLength .resp5 r.bytes
  | .confirm => decodeConfirm r.bytes
  | .resp17 => nBytes params.responseLength .resp17 r.bytes
  | .notify => oneByte (fun b => .ok (.notification b)) r.bytes
  | .rom8 => nBytes params.romLength .romCode r.bytes

/-! ### The encoder -/

/-- R27: false 0, true 1. -/
def boolByte (b : Bool) : Byte := if b then 1 else 0

/-- The encoder, from R51, R59 and R69. -/
def encode : Instr → Request
  | .crcNew => ⟨.hostop, [0]⟩
  | .crcCalc b => ⟨.hostop, [1, b]⟩
  | .encode rom ld => ⟨.hostop, 2 :: (rom ++ [BitVec.ofNat 8 ld])⟩
  | .decode resp => ⟨.hostop, 3 :: resp⟩
  | .busReset => ⟨.hostop, [4]⟩
  | .busDetect => ⟨.hostop, [5]⟩
  | .busLevel t => ⟨.hostop, [6, t.code.setWidth 8]⟩
  | .searchNew a => ⟨.hostop, [7, boolByte a]⟩
  | .searchNext => ⟨.hostop, [8]⟩
  | .reserved9 => ⟨.hostop, [9]⟩
  | .reserved10 => ⟨.hostop, [10]⟩
  | .reserved11 => ⟨.hostop, [11]⟩
  | .reserved12 => ⟨.hostop, [12]⟩
  | .reserved13 => ⟨.hostop, [13]⟩
  | .reserved14 => ⟨.hostop, [14]⟩
  | .reserved15 => ⟨.hostop, [15]⟩
  | .cmdModeData => ⟨.fixed, [params.cmdModeData]⟩
  | .cmdModeCommand => ⟨.fixed, [params.cmdModeCommand]⟩
  | .cmdBusReset => ⟨.comm, [cmdBusReset params]⟩
  | .cmdReset => ⟨.fixed, [params.cmdReset]⟩
  | .cfgSlew => ⟨.config, [cfgSlew params]⟩
  | .cfgWrite1Low => ⟨.config, [cfgWrite1Low params]⟩
  | .cfgSampleOffset => ⟨.config, [cfgSampleOffset params]⟩
  | .probeBaudRead => ⟨.config, [params.probeBaudRead]⟩
  | .probeBitTest => ⟨.comm, [params.probeBitTest]⟩
  | .cmdPulseTerminate => ⟨.fixed, [params.cmdPulseTerminate]⟩
  | .cmdChmodPulse => ⟨.comm, [params.cmdChmodPulse]⟩
  | .cfgPulse5VInfinite => ⟨.config, [cfgPulse5VInfinite params]⟩
  | .cmdSearchRom => ⟨.data, [params.cmdSearchRom]⟩
  | .cmdSearchAlarm => ⟨.data, [params.cmdSearchAlarm]⟩
  | .cmdSearchAccelOn => ⟨.fixed, [params.cmdSearchAccelOn]⟩
  | .cmdSearchAccelOff => ⟨.fixed, [params.cmdSearchAccelOff]⟩
  | .breakFiller => ⟨.data, params.breakFiller⟩
  | .frameByte b => ⟨.frame16, [b]⟩
  | .commFormat f sp => ⟨.comm, [commByte params f sp]⟩
  | .configFormat p v => ⟨.config, [configByte params p v]⟩
  | .status s => ⟨.status, [s]⟩
  | .resp5 r => ⟨.resp5, r⟩
  | .confirmNormal c0 c1 => ⟨.confirm, [c0, c1]⟩
  | .confirmPulse c0 => ⟨.confirm, [c0]⟩
  | .resp17 r => ⟨.resp17, r⟩
  | .notification b => ⟨.notify, [b]⟩
  | .romCode rom => ⟨.rom8, rom⟩

/-! ### Words of spec/opcode_table.json -/

/-- Byte `j` of a table word: bit 0 of the word is the least significant bit of its first byte. -/
def wordByte (w j : Nat) : Byte := BitVec.ofNat 8 (w / 2 ^ (8 * j))

/-- The first `n` bytes of a table word, first byte first. -/
def wordBytes (w : Nat) : Nat → List Byte
  | 0 => []
  | n + 1 => wordBytes w n ++ [wordByte w n]

/-- The word with every bit above `nbits` zero. -/
def maskWord (nbits w : Nat) : Nat := w % 2 ^ nbits

/-- How many bytes a host operation has, from its OPSEL (R69). -/
def hostopLength (op : Byte) : Nat :=
  match op.toNat with
  | 1 => 2
  | 2 => 1 + params.romLength + 1
  | 3 => 1 + params.responseLength
  | 6 => 2
  | 7 => 2
  | _ => 1

/-- DESIGN CHOICE (log entry 8): the format in which a bare table word is read, from its first byte. A word below 16 is an
OPSEL; of the wire bytes, those with a fixed value first, then COMM, CONFIG and frame bytes. -/
def tableFormat (b : Byte) : Format :=
  if b.toNat < 16 then .hostop
  else if b = params.cmdModeData ∨ b = params.cmdModeCommand ∨ b = params.cmdPulseTerminate ∨ b = params.cmdSearchAccelOn ∨
      b = params.cmdSearchAccelOff then .fixed
  else if b = params.cmdSearchRom ∨ b = params.cmdSearchAlarm then .data
  else if b &&& 0x83#8 = params.comm then .comm
  else if b &&& 0x81#8 = params.config then .config
  else if isFrameByte b then .frame16
  else .hostop

/-- The request a table word stands for: its bytes, with the operand bytes the table gives no bits for zero. -/
def tableRequest (nbits w : Nat) : Request :=
  let v := maskWord nbits w
  let fmt := tableFormat (wordByte v 0)
  let n := match fmt with
    | .hostop => hostopLength (wordByte v 0)
    | _ => 1
  ⟨fmt, wordBytes v n⟩

/-- The instruction the decoder reads from a table word. -/
def decodeTableWord (nbits w : Nat) : Option Instr :=
  match decode (tableRequest nbits w) with
  | .ok i => some i
  | .error _ => none

end Sys2Proof
end

