-- ==== Sys2Proof/Machine/State.lean ====
section
/-! DEFINITION. The state of the machine as plain data: the registers of R10, the transport port of R30 to R36 as an oracle
held as data, and the host side. Reset is R28. -/

namespace Sys2Proof.Machine

/-- `BUS.mode` (R13). -/
inductive Mode where
  | command
  | data
  deriving DecidableEq, Repr

/-- The CRC8 unit's register (R11). -/
structure Crc where
  state : Byte
  deriving DecidableEq, Repr

/-- The Bus Controller's registers (R13, R14): bookkeeping about the chip, which can be wrong (R24). -/
structure Bus where
  mode  : Mode
  level : Level
  deriving DecidableEq, Repr

/-- The search cursor (R15 to R19). The ranges 0 to 64 and 0 to 8 of the two positions are part of `Inv`. -/
structure Srch where
  alarmOnly : Bool
  rom : List Byte
  lastDiscrepancy : Nat
  lastFamilyDiscrepancy : Nat
  exhausted : Bool
  deriving DecidableEq, Repr

/-- A call of a transport primitive (R31 to R34). -/
inductive Call where
  | write (bytes : List Byte)
  | read (n : Nat)
  | setBaud (rate : Nat)
  | delay (ms : Nat)
  deriving DecidableEq, Repr

/-- Reason carried by `E_DATA` (R150): 1 CRC not zero, 2 discrepancy equals `DISCREPANCY_FAIL`, 3 family byte zero. -/
inductive DataReason where
  | crc
  | discrepancy
  | family
  deriving DecidableEq, Repr

/-- The error kinds of R150. -/
inductive Error where
  | io (kind : IoKind)
  | sync
  | data (reason : DataReason)
  deriving DecidableEq, Repr

/-- Why an operation ends before its last line: an error is raised (R151) or the host drops it (R163). -/
inductive Stop where
  | raised (e : Error)
  | abandoned
  deriving DecidableEq, Repr

/-- An entry of the event history (R36): a completed call, a read with the bytes it delivered, or a call that was cut
short, with the part of it that took effect (R160, R163). -/
inductive Event where
  | write (bytes : List Byte)
  | read (bytes : List Byte)
  | setBaud (rate : Nat)
  | delay (ms : Nat)
  | cut (call : Call) (done : Nat) (why : Stop)
  deriving DecidableEq, Repr

/-- The transport as the block meets it: an oracle (R6, R32). Two streams, each with a fixed beginning and a free
tail: `script` gives the verdicts of the next calls and `rx` the unread bytes, oldest first; where they run out, the
verdict is `Config.freeVerdict` at `calls` and the byte is `Config.freeByte` at `taken`. Nothing here is the chip's
own state (R24). -/
structure Port where
  script  : List Verdict
  rx      : List Byte
  calls   : Nat
  taken   : Nat
  /-- the transport's rate; `none` at power-on, where it is not stated (R33) -/
  baud    : Option Nat
  history : List Event
  deriving DecidableEq, Repr

/-- Result of an item (R69, R150). -/
inductive Reply where
  /-- the operation has no result -/
  | done
  /-- `CRC_CALC`: the new state -/
  | state (v : Byte)
  /-- `ENCODE`: 16 bytes -/
  | frame (bytes : List Byte)
  /-- `DECODE`: ROM, `last_zero_position`, `family_discrepancy` -/
  | decoded (rom : List Byte) (lastZero family : Nat)
  /-- `BUS_RESET` -/
  | presence (b : Bool)
  /-- `BUS_DETECT` -/
  | synced (b : Bool)
  /-- `BUS_LEVEL`: `current_level` -/
  | level (l : Level)
  /-- `SEARCH_NEXT`: `Rom(rom)` -/
  | rom (bytes : List Byte)
  /-- `SEARCH_NEXT` -/
  | noMoreDevices
  /-- the confirmation of a level change is accepted or not (R66) -/
  | accepted (b : Bool)
  /-- the response byte that stands in the place of an examined byte (R102) -/
  | responseByte (b : Byte)
  /-- the operation ended with an error -/
  | error (e : Error)
  deriving DecidableEq, Repr

/-- The machine. `crc`, `bus` and `srch` are the eight registers of R10; `port` is the environment's transport (R30);
`requests` are the host operations issued and not yet started, oldest first, each as the bytes of R69 (R36): the host
has no other move (R186); `item` is a single item of the block's own traffic, to be performed alone by the next step (log
entry 6): none at reset, and neither the host nor any step puts one there; `reply` is the last operation's
result, which no rule of the block reads (R23). -/
structure State where
  crc : Crc
  bus : Bus
  srch : Srch
  port : Port
  requests : List (List Byte)
  item : Option Request
  reply : Option Reply
  deriving DecidableEq, Repr

/-- Nothing stops the block: every error of the spec is the result of an operation, after which the next one is
accepted (R160, R161). So there is no fault; the type is empty. -/
inductive Fault where
  deriving DecidableEq, Repr

/-- Why an item has no meaning. Every one is safe: the model stops and claims nothing. -/
inductive Refusal where
  /-- an instruction whose meaning is not written; raised in exec's arms only; safe -/
  | notModelled (mnemonic : String)
  /-- OPSEL 9 to 15 (R68, R69; U1: "Treatment: `refuse`. No operation starts, no register changes, no transport
  event"); raised by the meanings of RESERVED_9 to RESERVED_15; safe -/
  | reservedOpsel (code : Nat)
  /-- an operand outside its range (U2, U3, D30: "the operation is not started"); raised by the meanings whose
  instruction is not well formed; safe -/
  | operandOutOfRange
  /-- a request that is no instruction, with the decoder's reason (U2, U3, D30 for a host operation with an operand out
  of range); raised by step; safe -/
  | undecodable (why : Reject)
  deriving DecidableEq, Repr

/-- The transport at power-on: nothing is fixed about what it will answer, its rate is not stated, and no event has
happened (R33, R181; log entries 1, 2 and 3). -/
def Port.reset : Port :=
  { script := [], rx := [], calls := 0, taken := 0, baud := none, history := [] }

/-- Power-on (R28): `CRC.state` 0, Command, Normal, the cursor {false, zeros, 0, 0, exhausted true}. -/
def State.reset : State :=
  { crc := { state := 0 }
    bus := { mode := .command, level := .normal }
    srch := { alarmOnly := false, rom := zeroBytes params.romLength, lastDiscrepancy := 0, lastFamilyDiscrepancy := 0, exhausted := true }
    port := Port.reset
    requests := []
    item := none
    reply := none }

end Sys2Proof.Machine
end

