-- ==== Sys2Proof/Machine/Operands.lean ====
section
/-! DEFINITION. Operand forms: bit access into byte lists (R7, R91), the frame and response forms of the codec (R62, R63,
R92 to R94), the register view of the host (R145) and the codes of the enumerated registers (R27). -/

namespace Sys2Proof.Machine

/-- `bit(B, k) = (B[k div 8] >> (k mod 8)) & 1` (R7). -/
def bit (B : List Byte) (k : Nat) : Bool := (B.getD (k / 8) 0).getLsbD (k % 8)

/-- A byte with bit `k` set to `v` and every other bit left. -/
def setByteBit (b : Byte) (k : Nat) (v : Bool) : Byte :=
  if v then b ||| (1#8 <<< k) else b &&& ~~~(1#8 <<< k)

/-- `setbit(B, k, v)` (R7): "sets that bit to `v` and leaves every other bit". -/
def setbit (B : List Byte) (k : Nat) (v : Bool) : List Byte :=
  B.set (k / 8) (setByteBit (B.getD (k / 8) 0) (k % 8) v)

/-- The body of `ENCODE`'s loop at logical bit index `i` (R92), for `last_discrepancy` not 0. -/
def encodeBit (priorRom : List Byte) (ld i : Nat) (F : List Byte) : List Byte :=
  if i < ld - 1 then setbit F (2 * i) (bit priorRom i)
  else if i = ld - 1 then setbit F (2 * i) true
  else F

/-- `ENCODE`'s loop over the indices below `n`, ascending (R92). -/
def encodeLoop (c : Config) (priorRom : List Byte) (ld : Nat) : Nat → List Byte
  | 0 => zeroBytes c.frameLength
  | i + 1 => encodeBit priorRom ld i (encodeLoop c priorRom ld i)

/-- `ENCODE` (R92): the 16-byte search frame, over the 64 logical bits of a ROM code. -/
def encodeFrame (c : Config) (priorRom : List Byte) (ld : Nat) : List Byte :=
  if ld = 0 then zeroBytes c.frameLength else encodeLoop c priorRom ld (8 * c.romLength)

/-- Swap of adjacent bytes in pairs, from the front. -/
def swapPairs : List Byte → List Byte
  | a :: b :: rest => b :: a :: swapPairs rest
  | l => l

/-- `Quirk(R)` (R93): byte 0 stays, bytes 1 and 2, 3 and 4, ... are swapped. -/
def quirk : List Byte → List Byte
  | [] => []
  | r0 :: rest => r0 :: swapPairs rest

/-- Results of `DECODE` (R94). -/
structure Decoded where
  rom : List Byte
  lastZero : Nat
  family : Nat
  deriving DecidableEq, Repr

/-- Steering bit of logical bit `i` in a frame: even position of the pair (R62, R91). -/
def steerBit (F : List Byte) (i : Nat) : Bool := bit F (2 * i)

/-- Data (sampled) bit of logical bit `i` in a frame: odd position of the pair (R62, R91). -/
def dataBit (F : List Byte) (i : Nat) : Bool := bit F (2 * i + 1)

/-- The pair that `DECODE` records as a discrepancy: steering 1 and data 0 (R94). -/
def isDiscrepancy (F : List Byte) (i : Nat) : Bool := steerBit F i && !dataBit F i

/-- The body of `DECODE`'s loop at logical bit index `i` (R94). -/
def decodeBit (F : List Byte) (i : Nat) (d : Decoded) : Decoded :=
  { rom := setbit d.rom i (dataBit F i)
    lastZero := if isDiscrepancy F i then i + 1 else d.lastZero
    family := if isDiscrepancy F i && decide (i < 8) then i + 1 else d.family }

/-- `DECODE`'s loop over the indices below `n`, ascending (R94). -/
def decodeLoop (c : Config) (F : List Byte) : Nat → Decoded
  | 0 => { rom := zeroBytes c.romLength, lastZero := 0, family := 0 }
  | i + 1 => decodeBit F i (decodeLoop c F i)

/-- The 16 frame bytes of a response: `Quirk(resp17)[1..17]` (R94). -/
def responseFrame (resp17 : List Byte) : List Byte := (quirk resp17).drop 1

/-- `DECODE` (R94). -/
def decodeResponse (c : Config) (resp17 : List Byte) : Decoded := decodeLoop c (responseFrame resp17) (8 * c.romLength)

/-- R27: Command 0, Data 1. -/
def Mode.code : Mode → Nat
  | .command => 0
  | .data => 1

/-- A ROM code as a number, byte 0 the least significant (R39, R40). -/
def romNumber (rom : List Byte) : Nat := rom.foldr (fun b acc => b.toNat + 256 * acc) 0

/-- The host issues an operation, as the bytes of R69: with the reads of R145, its only move (R186). -/
def State.issue (bs : List Byte) (s : State) : State := { s with requests := s.requests ++ [bs] }

/-- The registers the host can read between operations, without side effect (R145). -/
inductive HostReg where
  | crcState
  | busMode
  | busLevel
  | srchAlarmOnly
  | srchRom
  | srchLastDiscrepancy
  | srchLastFamilyDiscrepancy
  | srchExhausted
  deriving DecidableEq, Repr

/-- The host's read of a register, in the codes of R27 (R145). There is no write. -/
def readHostReg (s : State) : HostReg → Nat
  | .crcState => s.crc.state.toNat
  | .busMode => s.bus.mode.code
  | .busLevel => s.bus.level.code.toNat
  | .srchAlarmOnly => s.srch.alarmOnly.toNat
  | .srchRom => romNumber s.srch.rom
  | .srchLastDiscrepancy => s.srch.lastDiscrepancy
  | .srchLastFamilyDiscrepancy => s.srch.lastFamilyDiscrepancy
  | .srchExhausted => s.srch.exhausted.toNat

end Sys2Proof.Machine
end

