-- ==== Sys2Proof/Machine/Ops.lean ====
section
/-! DEFINITION. The shared operations: the transport primitives (R31 to R36), the end of an operation with a result, an error
or an abandonment (R151, R160, R163), and the Bus Controller's procedures (R101 to R111), which the meanings of the
instructions call. Every procedure takes the configuration record (R5). -/

namespace Sys2Proof.Machine

/-! ### Results of a procedure -/

/-- A procedure returns a value to its caller, or stops with the state as it stands (R151: nothing after a `raise` runs,
no register is restored). -/
inductive Res (α : Type) where
  | ok (a : α) (s : State)
  | stop (e : Stop) (s : State)

/-- Sequencing (R141, R151): a stop ends every caller. -/
def Res.bind {α β : Type} (r : Res α) (f : α → State → Res β) : Res β :=
  match r with
  | .ok a s => f a s
  | .stop e s => .stop e s

/-- The value a procedure returns, changed. -/
def Res.map {α β : Type} (f : α → β) (r : Res α) : Res β := r.bind fun a s => .ok (f a) s

/-- `raise` (R150, R151). -/
def raise {α : Type} (e : Error) (s : State) : Res α := .stop (.raised e) s

/-! ### Register writes -/

/-- `BUS.mode <- m`. -/
def State.setMode (m : Mode) (s : State) : State := { s with bus := { s.bus with mode := m } }

/-- `BUS.level <- l`. -/
def State.setLevel (l : Level) (s : State) : State := { s with bus := { s.bus with level := l } }

/-- `CRC.state <- v`. -/
def State.setCrc (v : Byte) (s : State) : State := { s with crc := { state := v } }

/-- The transport moves on; no register changes. -/
def State.setPort (p : Port) (s : State) : State := { s with port := p }

/-- What the host gets. -/
def State.setReply (r : Option Reply) (s : State) : State := { s with reply := r }

/-! ### The transport -/

/-- The environment's verdict on the call `j` places ahead. -/
def Port.verdictAt (p : Port) (j : Nat) : Verdict := p.script[j]?.getD (Config.freeVerdict (p.calls + j))

/-- The unread byte `j` places ahead in the receive direction. -/
def Port.byteAt (p : Port) (j : Nat) : Byte := p.rx[j]?.getD (Config.freeByte (p.taken + j))

/-- The oldest `n` unread bytes, in arrival order (R32). -/
def Port.incoming (p : Port) (n : Nat) : List Byte := (List.range n).map p.byteAt

/-- The receive direction with the oldest `n` bytes removed (R32). -/
def Port.dropRx (p : Port) (n : Nat) : Port := { p with rx := p.rx.drop n, taken := p.taken + n }

/-- One call is over: the next verdict is the following one, and the event is in the history. -/
def Port.record (p : Port) (e : Event) : Port :=
  { p with script := p.script.drop 1, calls := p.calls + 1, history := p.history ++ [e] }

/-- What a successful call hands to the block: the bytes of a read (R32), nothing otherwise (R31, R33, R34). -/
def Port.answer (p : Port) : Call → List Byte
  | .read n => p.incoming n
  | .write _ => []
  | .setBaud _ => []
  | .delay _ => []

/-- The transport after a call that succeeded (R31 to R34). -/
def Port.complete (p : Port) : Call → Port
  | .write B => p.record (.write B)
  | .read n => (p.dropRx n).record (.read (p.incoming n))
  | .setBaud r => { p.record (.setBaud r) with baud := some r }
  | .delay ms => p.record (.delay ms)

/-- The transport after a run of calls that all succeeded. -/
def Port.perform (p : Port) (cs : List Call) : Port := cs.foldl Port.complete p

/-- How much of a call that was cut short took effect, at most (R31 any of its bytes, R32 with U6: at most `n - 1` bytes
of a read that failed; an abandoned call may have taken full effect, R163). -/
def cutLimit : Call → Stop → Nat
  | .write B, _ => B.length
  | .read n, .raised _ => n - 1
  | .read n, .abandoned => n
  | .setBaud _, _ => 1
  | .delay _, _ => 1

/-- The transport after a call that was cut short (R31, R32, R33, R163): bytes a read removed are lost, a rate may have
changed. -/
def Port.cut (p : Port) (call : Call) (done : Nat) (why : Stop) : Port :=
  let d := min done (cutLimit call why)
  let p' := p.record (.cut call d why)
  match call with
  | .write _ => p'
  | .read _ => p'.dropRx d
  | .setBaud r => if d = 0 then p' else { p' with baud := some r }
  | .delay _ => p'

/-- `T.delay` "cannot fail" (R34); every other primitive can (R35). -/
def Call.canFail : Call → Bool
  | .delay _ => false
  | .write _ => true
  | .read _ => true
  | .setBaud _ => true

/-- The verdict as the call meets it: a failure of a call that cannot fail is none. -/
def Port.verdictFor (p : Port) (call : Call) : Verdict :=
  match p.verdictAt 0 with
  | .ok => .ok
  | .fail k d => if call.canFail then .fail k d else .ok
  | .abandon d => .abandon d

/-- A transport primitive (R31 to R35): the one operation through which the block reaches the port. A failure raises
`E_IO`; every call is a suspension point at which the host may drop the operation (R36, R163). -/
def transport (call : Call) (s : State) : Res (List Byte) :=
  match s.port.verdictFor call with
  | .ok => .ok (s.port.answer call) (s.setPort (s.port.complete call))
  | .fail k d => .stop (.raised (.io k)) (s.setPort (s.port.cut call d (.raised (.io k))))
  | .abandon d => .stop .abandoned (s.setPort (s.port.cut call d .abandoned))

/-- A primitive whose answer is not used. -/
def emit (call : Call) (s : State) : Res Unit := (transport call s).map fun _ => ()

/-! ### The end of an operation -/

/-- What a stop delivers to the host: an error is the operation's result (R160); an abandoned operation has none (R163). -/
def Stop.reply : Stop → Option Reply
  | .raised e => some (.error e)
  | .abandoned => none

/-- Taking an error or an abandonment (R151, R160, R163): no register is saved, switched or restored; the host gets the
error as the operation's result. There is no return from it (R162): the next operation is accepted as if nothing had
happened (R161). -/
def takeStop (e : Stop) (s : State) : State := s.setReply e.reply

/-- The end of a host operation: its result, or the stop, is delivered and the machine goes on. -/
def finish (r : Res Reply) : Host.Outcome State Fault Refusal :=
  .next (match r with
    | .ok a s => s.setReply (some a)
    | .stop e s => takeStop e s)

/-- An item that is refused when its operands are out of range: "the operation is not started" (D30). -/
def guarded (i : Instr) (r : Host.Outcome State Fault Refusal) : Host.Outcome State Fault Refusal :=
  if i.wellFormed then r else .refused .operandOutOfRange

/-! ### The Bus Controller's procedures -/

/-- The mode-switch byte for a mode (R101). -/
def modeByte (c : Config) : Mode → Byte
  | .command => c.cmdModeCommand
  | .data => c.cmdModeData

/-- `EnsureMode(m)` (R101): the register is written after the write has succeeded (D25). -/
def ensureMode (c : Config) (m : Mode) (s : State) : Res Unit :=
  if s.bus.mode = m then .ok () s
  else (emit (.write [modeByte c m]) s).bind fun _ s => .ok () (s.setMode m)

/-- Send one write in a given chip mode: the guard of R185 and the column "chip mode" of R59. -/
def sendIn (c : Config) (m : Mode) (B : List Byte) (s : State) : Res Unit :=
  (ensureMode c m s).bind fun _ s => emit (.write B) s

/-- The loop of `ReadFiltered` (R102) from index `i` with `left` indices to visit: a notification is removed, the gap is
closed and a filler byte is read and appended; the byte that slides into index `i` is not examined (D21). -/
def filterLoop (c : Config) : Nat → Nat → List Byte → State → Res (List Byte)
  | 0, _, buf, s => .ok buf s
  | left + 1, i, buf, s =>
    if c.notify (buf.getD i 0) then
      (transport (.read 1) s).bind fun x s => filterLoop c left (i + 1) (buf.eraseIdx i ++ x) s
    else filterLoop c left (i + 1) buf s

/-- The filter of `ReadFiltered` on a buffer already read (R102): only in Command mode, only from two bytes on. -/
def filterResponse (c : Config) (buf : List Byte) (s : State) : Res (List Byte) :=
  if s.bus.mode = .command ∧ 2 ≤ buf.length then filterLoop c buf.length 0 buf s else .ok buf s

/-- `ReadFiltered(n)` (R102). -/
def readFiltered (c : Config) (n : Nat) (s : State) : Res (List Byte) :=
  (transport (.read n) s).bind fun buf s => filterResponse c buf s

/-- The break of `BUS_DETECT` (R107): lower the rate, write the filler, restore the rate. -/
def emulateBreak (c : Config) (s : State) : Res Unit :=
  (emit (.setBaud c.baudBreak) s).bind fun _ s =>
  (emit (.write c.breakFiller) s).bind fun _ s =>
  emit (.setBaud c.baudNormal) s

/-- The forced register writes at the start of `BUS_DETECT` (R107). -/
def forceCommand (c : Config) (s : State) : State :=
  if c.detectResetsLevel then (s.setMode .command).setLevel .normal else s.setMode .command

/-- `BUS_DETECT` (R107): the result is `synced`. -/
def detect (c : Config) (s : State) : Res Bool :=
  (emulateBreak c (forceCommand c s)).bind fun _ s =>
  (emit (.delay c.settleMs) s).bind fun _ s =>
  (emit (.write [c.cmdReset]) s).bind fun _ s =>
  (emit (.delay c.settleMs) s).bind fun _ s =>
  (emit (.write (probeBytes c)) s).bind fun _ s =>
  (readFiltered c c.detectLength s).bind fun r s => .ok (accept c r) s

/-- `Resync()` (R106). -/
def resync (c : Config) (s : State) : Res Unit :=
  (detect c s).bind fun ok s => if ok then .ok () s else raise .sync s

/-- `ToNormal()` (R110). -/
def toNormal (c : Config) (s : State) : Res Bool :=
  (emit (.write [c.cmdPulseTerminate, c.cmdChmodPulse, c.cmdPulseTerminate]) s).bind fun _ s =>
  (readFiltered c 2 s).bind fun r s => .ok (acceptNormal c r) s

/-- `ToPulse()` (R111): the same two bytes for every non-Normal target. -/
def toPulse (c : Config) (s : State) : Res Bool :=
  (emit (.write [cfgPulse5VInfinite c, c.cmdChmodPulse]) s).bind fun _ s =>
  (readFiltered c 1 s).bind fun r s => .ok (acceptPulse c r) s

/-- The branch of `BUS_LEVEL` for the target (R109). -/
def toLevel (c : Config) (target : Level) (s : State) : Res Bool :=
  if target = .normal then toNormal c s else toPulse c s

/-- `BUS_LEVEL target` (R109): the result is the level when the operation ends. -/
def changeLevel (c : Config) (target : Level) (s : State) : Res Level :=
  if target = s.bus.level then .ok s.bus.level s
  else
    (ensureMode c .command s).bind fun _ s =>
    (toLevel c target s).bind fun ok s =>
    if ok then .ok target (s.setLevel target)
    else (resync c s).bind fun _ s => .ok s.bus.level s

/-- What `BUS_RESET` does with the status byte (R103 to R105): presence from the byte read, `Resync` when the byte fails the
sync check. -/
def statusOutcome (c : Config) (b : Byte) (s : State) : Res Bool :=
  if inSync c b then .ok (presenceOf c b) s
  else (resync c s).bind fun _ s => .ok (presenceOf c b) s

/-- `BUS_RESET` (R103): the result is `presence`. -/
def resetBus (c : Config) (s : State) : Res Bool :=
  (changeLevel c .normal s).bind fun _ s =>
  (sendIn c .command [cmdBusReset c] s).bind fun _ s =>
  (transport (.read 1) s).bind fun r s =>
  statusOutcome c (r.getD 0 0) s

end Sys2Proof.Machine
end

