-- ==== Sys2Proof/Machine/BusController.lean ====
section
/-! DEFINITION. The Bus Controller's host operations (R103, R107, R109). -/

namespace Sys2Proof.Machine

/-- `BUS_RESET` (R103). -/
def execBusReset (s : State) : Host.Outcome State Fault Refusal := finish ((resetBus params s).map .presence)

/-- `BUS_DETECT` (R107). -/
def execBusDetect (s : State) : Host.Outcome State Fault Refusal := finish ((detect params s).map .synced)

/-- `BUS_LEVEL target` (R109). -/
def execBusLevel (target : Level) (s : State) : Host.Outcome State Fault Refusal :=
  finish ((changeLevel params target s).map .level)

end Sys2Proof.Machine
end

