-- ==== Sys2Proof/Machine/Codec.lean ====
section
/-! DEFINITION. The bit-frame codec: `ENCODE` and `DECODE` (R92, R94). It holds no state and reaches no transport (R90). -/

namespace Sys2Proof.Machine

/-- `ENCODE prior_rom, last_discrepancy` (R92); a position above 64 is refused (U2). -/
def execEncode (priorRom : List Byte) (ld : Nat) (s : State) : Host.Outcome State Fault Refusal :=
  guarded (.encode priorRom ld) (finish (.ok (.frame (encodeFrame params priorRom ld)) s))

/-- The result of `DECODE` as the host gets it. -/
def Decoded.reply (d : Decoded) : Reply := .decoded d.rom d.lastZero d.family

/-- `DECODE resp17` (R94). -/
def execDecode (resp17 : List Byte) (s : State) : Host.Outcome State Fault Refusal :=
  guarded (.decode resp17) (finish (.ok (decodeResponse params resp17).reply s))

end Sys2Proof.Machine
end

