-- ==== Sys2Proof/Machine/Crc8.lean ====
section
/-! DEFINITION. The CRC8 unit: `CRC_NEW` and `CRC_CALC` (R81, R82). -/

namespace Sys2Proof.Machine

/-- `CRC_NEW` (R81). -/
def execCrcNew (s : State) : Host.Outcome State Fault Refusal := finish (.ok .done (s.setCrc 0))

/-- `CRC_CALC byte` (R82): the result is the new state (D28). -/
def execCrcCalc (b : Byte) (s : State) : Host.Outcome State Fault Refusal :=
  let v := crcNext params s.crc.state b
  finish (.ok (.state v) (s.setCrc v))

end Sys2Proof.Machine
end

