-- ==== Sys2Proof/Machine/Reserved.lean ====
section
/-! DEFINITION. OPSEL 9 to 15 (R68, R69): refused. U1: "Treatment: `refuse`. No operation starts, no register changes, no
transport event." -/

namespace Sys2Proof.Machine

/-- OPSEL 9 (U1). -/
def execReserved9 (_ : State) : Host.Outcome State Fault Refusal := .refused (.reservedOpsel 9)

/-- OPSEL 10 (U1). -/
def execReserved10 (_ : State) : Host.Outcome State Fault Refusal := .refused (.reservedOpsel 10)

/-- OPSEL 11 (U1). -/
def execReserved11 (_ : State) : Host.Outcome State Fault Refusal := .refused (.reservedOpsel 11)

/-- OPSEL 12 (U1). -/
def execReserved12 (_ : State) : Host.Outcome State Fault Refusal := .refused (.reservedOpsel 12)

/-- OPSEL 13 (U1). -/
def execReserved13 (_ : State) : Host.Outcome State Fault Refusal := .refused (.reservedOpsel 13)

/-- OPSEL 14 (U1). -/
def execReserved14 (_ : State) : Host.Outcome State Fault Refusal := .refused (.reservedOpsel 14)

/-- OPSEL 15 (U1). -/
def execReserved15 (_ : State) : Host.Outcome State Fault Refusal := .refused (.reservedOpsel 15)

end Sys2Proof.Machine
end

