-- ==== Sys2Proof/Machine/Search.lean ====
section
/-! DEFINITION. The Search Engine: `SEARCH_NEW` and `SEARCH_NEXT` (R131, R132). -/

namespace Sys2Proof.Machine

/-- The cursor `SEARCH_NEW` writes (R131). -/
def freshCursor (c : Config) (alarmOnly : Bool) : Srch :=
  { alarmOnly := alarmOnly, rom := zeroBytes c.romLength, lastDiscrepancy := 0, lastFamilyDiscrepancy := 0, exhausted := false }

/-- Step 7 (R134): all writes of the cursor together. -/
def nextCursor (k : Srch) (d : Decoded) : Srch :=
  { k with
    rom := d.rom
    lastDiscrepancy := d.lastZero
    lastFamilyDiscrepancy := if d.family ≠ 0 then d.family else k.lastFamilyDiscrepancy
    exhausted := if d.lastZero = 0 then true else k.exhausted }

/-- `SRCH <- k`. -/
def State.setCursor (k : Srch) (s : State) : State := { s with srch := k }

/-- The search command byte (R132 step 3, R137). -/
def searchCommand (c : Config) (alarmOnly : Bool) : Byte := if alarmOnly then c.cmdSearchAlarm else c.cmdSearchRom

/-- Step 3 (R132): the search command in Data mode, the accelerator on in Command mode. -/
def selectSearch (c : Config) (s : State) : Res Unit :=
  (sendIn c .data [searchCommand c s.srch.alarmOnly] s).bind fun _ s =>
  sendIn c .command [c.cmdSearchAccelOn] s

/-- Step 4 (R132): the frame, from the cursor, in Data mode, in one write. -/
def sendFrame (c : Config) (s : State) : Res Unit :=
  sendIn c .data (encodeFrame c s.srch.rom s.srch.lastDiscrepancy) s

/-- Step 5 (R132): read 17 bytes and decode them, the accelerator off in Command mode, the trailing reset, whose result is
ignored (D32). -/
def readSearchResponse (c : Config) (s : State) : Res Decoded :=
  (readFiltered c c.responseLength s).bind fun r s =>
  (sendIn c .command [c.cmdSearchAccelOff] s).bind fun _ s =>
  (resetBus c s).bind fun _ s => .ok (decodeResponse c r) s

/-- Steps 6 to 8 (R132, R133, R134): validate, update the cursor, return the ROM code. -/
def acceptRom (c : Config) (d : Decoded) (s : State) : Res Reply :=
  match validate c d.rom d.lastZero with
  | some reason => raise (.data reason) s
  | none => .ok (.rom d.rom) (s.setCursor (nextCursor s.srch d))

/-- Steps 3 to 8 (R132). -/
def searchExchange (c : Config) (s : State) : Res Reply :=
  (selectSearch c s).bind fun _ s =>
  (sendFrame c s).bind fun _ s =>
  (readSearchResponse c s).bind fun d s => acceptRom c d s

/-- `SEARCH_NEXT` (R132), all steps. -/
def searchNext (c : Config) (s : State) : Res Reply :=
  if s.srch.exhausted then .ok .noMoreDevices s
  else (resetBus c s).bind fun present s => if present then searchExchange c s else .ok .noMoreDevices s

/-- `SEARCH_NEW alarm_only` (R131). -/
def execSearchNew (alarmOnly : Bool) (s : State) : Host.Outcome State Fault Refusal :=
  finish (.ok .done (s.setCursor (freshCursor params alarmOnly)))

/-- `SEARCH_NEXT` (R132). -/
def execSearchNext (s : State) : Host.Outcome State Fault Refusal := finish (searchNext params s)

end Sys2Proof.Machine
end

