-- ==== Sys2Proof/Machine/WireReceived.lean ====
section
/-! DEFINITION. The rows of what the block receives or delivers (R60 to R67). "every received byte value has a defined outcome
in the rule that reads it" (R68): the meaning of such a row is what the block does with the item once it has been
read (log entry 6). -/

namespace Sys2Proof.Machine

/-- STATUS (R60, R104, R105): presence, and `Resync` when the byte fails the sync check. -/
def execStatus (b : Byte) (s : State) : Host.Outcome State Fault Refusal :=
  finish ((statusOutcome params b s).map .presence)

/-- RESP5 (R65, R108): the filter, then `Accept`. -/
def execResp5 (r : List Byte) (s : State) : Host.Outcome State Fault Refusal :=
  guarded (.resp5 r) (finish ((filterResponse params r s).map fun r => .synced (accept params r)))

/-- CONFIRM_NORMAL (R66, R110): the filter, then the mask on both bytes. -/
def execConfirmNormal (c0 c1 : Byte) (s : State) : Host.Outcome State Fault Refusal :=
  finish ((filterResponse params [c0, c1] s).map fun r => .accepted (acceptNormal params r))

/-- CONFIRM_PULSE (R66, R111): one byte, never filtered. -/
def execConfirmPulse (c0 : Byte) (s : State) : Host.Outcome State Fault Refusal :=
  finish ((filterResponse params [c0] s).map fun r => .accepted (acceptPulse params r))

/-- RESP17 (R63, R94): the filter (which in Data mode does nothing), then `DECODE`. -/
def execResp17 (r : List Byte) (s : State) : Host.Outcome State Fault Refusal :=
  guarded (.resp17 r) (finish ((filterResponse params r s).map fun r => (decodeResponse params r).reply))

/-- NOTIFICATION (R67, R102): a byte met by the filter; in Command mode, a notification is discarded and one filler byte is
read in its place. -/
def execNotification (b : Byte) (s : State) : Host.Outcome State Fault Refusal :=
  finish (((if s.bus.mode = .command then filterLoop params 1 0 [b] s else .ok [b] s)).map fun r => .responseByte (r.getD 0 0))

/-- ROM_CODE (R61, R133): the code is delivered when it meets the invariant of R61; otherwise `E_DATA` with the first
failing test. A ROM code carries no discrepancy position, so that test of R133 has nothing to test. -/
def execRomCode (rom : List Byte) (s : State) : Host.Outcome State Fault Refusal :=
  guarded (.romCode rom) (finish (match validate params rom 0 with
    | some reason => raise (.data reason) s
    | none => .ok (.rom rom) s))

end Sys2Proof.Machine
end

