-- ==== Sys2Proof/Machine/WireSent.lean ====
section
/-! DEFINITION. The rows of bytes the block sends (R51 to R59, R62). The meaning of such a row is the block's own act of
sending that byte: `EnsureMode` for the chip mode of R59's column, then one write (log entry 6). -/

namespace Sys2Proof.Machine

/-- One byte, sent in the given chip mode. -/
def sendByte (m : Mode) (b : Byte) (s : State) : Host.Outcome State Fault Refusal :=
  finish ((sendIn params m [b] s).map fun _ => .done)

/-- A mode switch, `EnsureMode(m)` (R101). -/
def switchMode (m : Mode) (s : State) : Host.Outcome State Fault Refusal :=
  finish ((ensureMode params m s).map fun _ => .done)

/-- `CMD_MODE_DATA`, sent by `EnsureMode(Data)` (R101). -/
def execCmdModeData (s : State) : Host.Outcome State Fault Refusal := switchMode .data s

/-- `CMD_MODE_COMMAND`, sent by `EnsureMode(Command)` (R101). -/
def execCmdModeCommand (s : State) : Host.Outcome State Fault Refusal := switchMode .command s

/-- `CMD_BUS_RESET` (R59, R103). -/
def execCmdBusReset (s : State) : Host.Outcome State Fault Refusal := sendByte .command (cmdBusReset params) s

/-- `CMD_RESET` (R59, R107). -/
def execCmdReset (s : State) : Host.Outcome State Fault Refusal := sendByte .command params.cmdReset s

/-- `CFG_SLEW` (R59, R107). -/
def execCfgSlew (s : State) : Host.Outcome State Fault Refusal := sendByte .command (cfgSlew params) s

/-- `CFG_WRITE1LOW` (R59, R107). -/
def execCfgWrite1Low (s : State) : Host.Outcome State Fault Refusal := sendByte .command (cfgWrite1Low params) s

/-- `CFG_SAMPLEOFFSET` (R59, R107). -/
def execCfgSampleOffset (s : State) : Host.Outcome State Fault Refusal := sendByte .command (cfgSampleOffset params) s

/-- `PROBE_BAUD_READ` (R59, R107). -/
def execProbeBaudRead (s : State) : Host.Outcome State Fault Refusal := sendByte .command params.probeBaudRead s

/-- `PROBE_BIT_TEST` (R59, R107). -/
def execProbeBitTest (s : State) : Host.Outcome State Fault Refusal := sendByte .command params.probeBitTest s

/-- `CMD_PULSE_TERMINATE` (R59, R110). -/
def execCmdPulseTerminate (s : State) : Host.Outcome State Fault Refusal := sendByte .command params.cmdPulseTerminate s

/-- `CMD_CHMOD_PULSE` (R59, R110, R111). -/
def execCmdChmodPulse (s : State) : Host.Outcome State Fault Refusal := sendByte .command params.cmdChmodPulse s

/-- `CFG_PULSE5V_INFINITE` (R59, R111). -/
def execCfgPulse5VInfinite (s : State) : Host.Outcome State Fault Refusal := sendByte .command (cfgPulse5VInfinite params) s

/-- `CMD_SEARCH_ROM` (R59, R132). -/
def execCmdSearchRom (s : State) : Host.Outcome State Fault Refusal := sendByte .data params.cmdSearchRom s

/-- `CMD_SEARCH_ALARM` (R59, R132, R137). -/
def execCmdSearchAlarm (s : State) : Host.Outcome State Fault Refusal := sendByte .data params.cmdSearchAlarm s

/-- `CMD_SEARCH_ACCEL_ON` (R59, R132). -/
def execCmdSearchAccelOn (s : State) : Host.Outcome State Fault Refusal := sendByte .command params.cmdSearchAccelOn s

/-- `CMD_SEARCH_ACCEL_OFF` (R59, R132). -/
def execCmdSearchAccelOff (s : State) : Host.Outcome State Fault Refusal := sendByte .command params.cmdSearchAccelOff s

/-- `BREAK_FILLER` (R59: any mode, at `BAUD_BREAK`; R107): the rate is lowered, the filler written, the rate restored. -/
def execBreakFiller (s : State) : Host.Outcome State Fault Refusal := finish ((emulateBreak params s).map fun _ => .done)

/-- One byte of the frame (R59, R62); a byte with a data bit set is no frame byte and is refused (D30). -/
def execFrameByte (b : Byte) (s : State) : Host.Outcome State Fault Refusal :=
  guarded (.frameByte b) (sendByte .data b s)

/-- A function byte of the COMM format (R52). -/
def execCommFormat (f : FunctionSelect) (sp : SpeedSelect) (s : State) : Host.Outcome State Fault Refusal :=
  guarded (.commFormat f sp) (sendByte .command (commByte params f sp) s)

/-- A parameter byte of the CONFIG format (R56). -/
def execConfigFormat (p : ParameterSelect) (v : BitVec 3) (s : State) : Host.Outcome State Fault Refusal :=
  guarded (.configFormat p v) (sendByte .command (configByte params p v) s)

end Sys2Proof.Machine
end

