-- ==== Sys2Proof/Machine/Dispatch.lean ====
section
/-! DEFINITION. The dispatch: one arm per constructor of Instr, each one call of its meaning. -/

namespace Sys2Proof.Machine

def exec (i : Instr) (s : State) : Host.Outcome State Fault Refusal :=
  match i with
  | .crcNew => Sys2Proof.Machine.execCrcNew s
  | .crcCalc b => Sys2Proof.Machine.execCrcCalc b s
  | .encode rom ld => Sys2Proof.Machine.execEncode rom ld s
  | .decode r => Sys2Proof.Machine.execDecode r s
  | .busReset => Sys2Proof.Machine.execBusReset s
  | .busDetect => Sys2Proof.Machine.execBusDetect s
  | .busLevel t => Sys2Proof.Machine.execBusLevel t s
  | .searchNew a => Sys2Proof.Machine.execSearchNew a s
  | .searchNext => Sys2Proof.Machine.execSearchNext s
  | .reserved9 => Sys2Proof.Machine.execReserved9 s
  | .reserved10 => Sys2Proof.Machine.execReserved10 s
  | .reserved11 => Sys2Proof.Machine.execReserved11 s
  | .reserved12 => Sys2Proof.Machine.execReserved12 s
  | .reserved13 => Sys2Proof.Machine.execReserved13 s
  | .reserved14 => Sys2Proof.Machine.execReserved14 s
  | .reserved15 => Sys2Proof.Machine.execReserved15 s
  | .cmdModeData => Sys2Proof.Machine.execCmdModeData s
  | .cmdModeCommand => Sys2Proof.Machine.execCmdModeCommand s
  | .cmdBusReset => Sys2Proof.Machine.execCmdBusReset s
  | .cmdReset => Sys2Proof.Machine.execCmdReset s
  | .cfgSlew => Sys2Proof.Machine.execCfgSlew s
  | .cfgWrite1Low => Sys2Proof.Machine.execCfgWrite1Low s
  | .cfgSampleOffset => Sys2Proof.Machine.execCfgSampleOffset s
  | .probeBaudRead => Sys2Proof.Machine.execProbeBaudRead s
  | .probeBitTest => Sys2Proof.Machine.execProbeBitTest s
  | .cmdPulseTerminate => Sys2Proof.Machine.execCmdPulseTerminate s
  | .cmdChmodPulse => Sys2Proof.Machine.execCmdChmodPulse s
  | .cfgPulse5VInfinite => Sys2Proof.Machine.execCfgPulse5VInfinite s
  | .cmdSearchRom => Sys2Proof.Machine.execCmdSearchRom s
  | .cmdSearchAlarm => Sys2Proof.Machine.execCmdSearchAlarm s
  | .cmdSearchAccelOn => Sys2Proof.Machine.execCmdSearchAccelOn s
  | .cmdSearchAccelOff => Sys2Proof.Machine.execCmdSearchAccelOff s
  | .breakFiller => Sys2Proof.Machine.execBreakFiller s
  | .frameByte b => Sys2Proof.Machine.execFrameByte b s
  | .commFormat f sp => Sys2Proof.Machine.execCommFormat f sp s
  | .configFormat p v => Sys2Proof.Machine.execConfigFormat p v s
  | .status b => Sys2Proof.Machine.execStatus b s
  | .resp5 r => Sys2Proof.Machine.execResp5 r s
  | .confirmNormal c0 c1 => Sys2Proof.Machine.execConfirmNormal c0 c1 s
  | .confirmPulse c0 => Sys2Proof.Machine.execConfirmPulse c0 s
  | .resp17 r => Sys2Proof.Machine.execResp17 r s
  | .notification b => Sys2Proof.Machine.execNotification b s
  | .romCode rom => Sys2Proof.Machine.execRomCode rom s

end Sys2Proof.Machine
end

