-- ==== Sys2Proof/Machine/Step.lean ====
section
/-! DEFINITION. One step: a single item of the block's own traffic if one stands there, else the host's oldest operation, whole.
With neither the block does nothing (R22, R140). -/

namespace Sys2Proof.Machine

/-- What the bytes decode to is executed; what is no instruction is refused with the decoder's reason. -/
def perform (r : Request) (s : State) : Host.Outcome State Fault Refusal :=
  match decode r with
  | .error why => .refused (.undecodable why)
  | .ok i => exec i s

/-- One step of the machine. Operations are executed one at a time, in the order issued (R36, R38, R140). What the host issues
is read in the format HOSTOP alone: it has no move that writes or reads the transport (R186). -/
def step (s : State) : Host.Outcome State Fault Refusal :=
  match s.item with
  | some r => perform r { s with item := none }
  | none =>
    match s.requests with
    | [] => .next s
    | bs :: rest => perform ⟨.hostop, bs⟩ { s with requests := rest }

/-- The state in which the next step runs the instruction of a table word: a host operation stands first among the host's
requests; any other row is the single item (log entries 6 and 9). -/
def State.withFetchWord (s : State) (nbits w : Nat) : State :=
  let r := tableRequest nbits w
  if r.format = .hostop then { s with requests := r.bytes :: s.requests, item := none } else { s with item := some r }

end Sys2Proof.Machine
end

