-- ==== Sys2Proof/Safety.lean ====
section
/-! DEFINITION. The terms in which claims about the machine are made: the host operations, the invariant of R20, safe runs,
the ghost flag of R161, the bytes of R59, and the chip mode that a history of bytes sent implies (R64). -/

namespace Sys2Proof.Machine

/-- The nine host operations (R3). -/
def isHostOp : Instr → Bool
  | .crcNew | .crcCalc _ | .encode _ _ | .decode _ | .busReset | .busDetect | .busLevel _ | .searchNew _ | .searchNext => true
  | .reserved9 | .reserved10 | .reserved11 | .reserved12 | .reserved13 | .reserved14 | .reserved15 => false
  | .cmdModeData | .cmdModeCommand | .cmdBusReset | .cmdReset | .cfgSlew | .cfgWrite1Low | .cfgSampleOffset => false
  | .probeBaudRead | .probeBitTest | .cmdPulseTerminate | .cmdChmodPulse | .cfgPulse5VInfinite => false
  | .cmdSearchRom | .cmdSearchAlarm | .cmdSearchAccelOn | .cmdSearchAccelOff | .breakFiller => false
  | .frameByte _ | .commFormat _ _ | .configFormat _ _ => false
  | .status _ | .resp5 _ | .confirmNormal _ _ | .confirmPulse _ | .resp17 _ | .notification _ | .romCode _ => false

/-- The relations between the cursor registers (R20), with the width of `SRCH.rom` (R10). Clause (d) of R20 is "after any
successful step"; a fresh cursor has all zeros, which folds to 0 too (R86 e). -/
structure CursorInv (k : Srch) : Prop where
  romLength : k.rom.length = 8
  exhaustedMeansNone : k.exhausted = true → k.lastDiscrepancy = 0
  discrepancyRange : k.lastDiscrepancy ≤ 64
  discrepancyNotFail : k.lastDiscrepancy ≠ 63
  familyRange : k.lastFamilyDiscrepancy ≤ 8
  crcValid : crcFold params k.rom = 0
  familyByte : k.rom = zeroBytes 8 ∨ k.rom.getD 0 0 ≠ 0
  branchBitIsZero : ∀ i, k.lastDiscrepancy = i + 1 → bit k.rom i = false

/-- The invariant of the machine: R20. -/
def Inv (s : State) : Prop := CursorInv s.srch

/-- A run of `n` steps that is neither refused nor faults. -/
def SafeRun (n : Nat) (s : State) : Prop := ∃ t, Host.Core.run { State := State, Fault := Fault, Refusal := Refusal, step := step, reset := State.reset } n s = .next t

/-- The instruction the next step runs, if it runs one: that of the item, else that of the oldest request (R36). -/
def instrAt (s : State) : Option Instr :=
  match s.item with
  | some r => (decode r).toOption
  | none =>
    match s.requests with
    | [] => none
    | bs :: _ => (decode ⟨.hostop, bs⟩).toOption

/-- Ghost flag of R161 after an instruction with this result: "an error has been returned and no `BUS_DETECT` has answered
true since". Every error sets it, `E_DATA` too, and so does an operation that was dropped (R163, R164); only a
`BUS_DETECT` that answers true clears it, not a true answer of another instruction (log entry 22). -/
def resyncOwed (owed : Bool) (i : Instr) : Option Reply → Bool
  | none => true
  | some (.error _) => true
  | some (.synced synced) => if i = .busDetect ∧ synced = true then false else owed
  | some _ => owed

/-- The ghost flag after a step from `s` to `t`; a step that runs no instruction leaves it. -/
def resyncOwedAfter (owed : Bool) (s t : State) : Bool :=
  match instrAt s with
  | none => owed
  | some i => resyncOwed owed i t.reply

/-- A step with the ghost flag of R161 recorded beside the state. The block keeps no such bit and `step` does not see it; a
claim about the chip should be made only where it is false. -/
def stepOwed (g : Bool × State) : Host.Outcome (Bool × State) Fault Refusal :=
  match step g.2 with
  | .next t => .next (resyncOwedAfter g.1 g.2 t, t)
  | .fault f => .fault f
  | .refused r => .refused r

/-- The bytes a history of events has put on the transport, in order (R31, R46): all of a completed write, the part that
left of a write that was cut short. -/
def Event.sent : Event → List Byte
  | .write B => B
  | .cut (.write B) d _ => B.take d
  | _ => []

/-- A byte R59 lists: a fixed value, or a frame byte. -/
def isListedByte (b : Byte) : Bool :=
  b ∈ [0xE1#8, 0xE3#8, 0xC1#8, 0x15#8, 0x45#8, 0x5B#8, 0x0F#8, 0x91#8, 0xF1#8, 0xED#8, 0x3F#8, 0xB1#8, 0xA1#8, 0xF0#8, 0xEC#8]
    || isFrameByte b

/-- How the chip's mode follows from a byte it reads (R64): in Command mode 0xE1 switches to Data, in Data mode 0xE3
switches to Command, every other byte leaves it. -/
def chipModeByte (m : Mode) (b : Byte) : Mode :=
  match m with
  | .command => if b = 0xE1#8 then .data else .command
  | .data => if b = 0xE3#8 then .command else .data

/-- The mode a chip that follows R64 is in after an event, if a break leaves it in Command mode. That a chip in a break goes
to Command mode is what `BUS_DETECT` relies on (R107 "forces mode=Command"); it is no rule about the chip (R24). -/
def chipModeEvent (m : Mode) (e : Event) : Mode :=
  match e with
  | .setBaud r => if r = params.baudBreak then .command else m
  | e => e.sent.foldl chipModeByte m

/-- The mode after a list of events. -/
def chipModeAfter (m : Mode) (es : List Event) : Mode := es.foldl chipModeEvent m

/-- An event of a call that was cut short. -/
def Event.isCut : Event → Bool
  | .cut _ _ _ => true
  | _ => false

/-- The next `k` calls of the transport succeed. -/
def Port.grants (p : Port) (k : Nat) : Prop := ∀ j, j < k → p.verdictAt j = .ok

/-- The bytes of the receive direction from the one `off` places ahead on, `n` of them. -/
def Port.bytesFrom (p : Port) (off n : Nat) : List Byte := (List.range n).map fun j => p.byteAt (off + j)

/-- The state after a run of calls that all succeeded, with the controller's registers at `b`; all else unchanged. -/
def State.afterCalls (s : State) (cs : List Call) (b : Bus) : State := { s with port := s.port.perform cs, bus := b }

/-- The calls of `EnsureMode(m)` from mode `m0` (R101): one write of the switch byte when the mode differs. -/
def modeSwitchCalls (m0 m : Mode) : List Call :=
  if m0 = m then [] else
    match m with
    | .command => [.write [0xE3]]
    | .data => [.write [0xE1]]

/-- The calls of a `BUS_DETECT` in which no notification is met (R107; the event list of program P4). -/
def detectCalls : List Call :=
  [.setBaud 2400, .write [0x00], .setBaud 9600, .delay 2, .write [0xC1], .delay 2,
    .write [0x15, 0x45, 0x5B, 0x0F, 0x91], .read 5]

/-! ### Terms of the statements: the values of R59, R104, R108, R110, R111 and the calls of R103, R109 and R132 written out -/

/-- `n` steps of the bit-serial form of `CRC_CALC` (R83): `m <- (CRC.state ^ byte)[0]`, shift, exclusive-or 0x8C if `m`. -/
def crcSerial : Nat → Byte → Byte → Byte
  | 0, st, _ => st
  | n + 1, st, b =>
    crcSerial n (if (st ^^^ b).getLsbD 0 then (st >>> 1) ^^^ 0x8C#8 else st >>> 1) (b >>> 1)

/-- What `p` is as the last of the recorded positions `i + 1` with `i < n` (R94): 0 if there is none, else the highest. -/
def isLastPosition (rec : Nat → Bool) (n p : Nat) : Prop :=
  (∀ i, i < n → rec i = true → i + 1 ≤ p) ∧ (p = 0 ∨ ∃ i, i < n ∧ rec i = true ∧ p = i + 1)

/-- The switch instruction for a mode (R101). -/
def switchInstr : Mode → Instr
  | .command => .cmdModeCommand
  | .data => .cmdModeData

/-- The rows of R59 with a fixed byte, its chip mode and its value. -/
def fixedByteRow : Instr → Option (Mode × Byte)
  | .cmdBusReset => some (.command, 0xC1)
  | .cmdReset => some (.command, 0xC1)
  | .cfgSlew => some (.command, 0x15)
  | .cfgWrite1Low => some (.command, 0x45)
  | .cfgSampleOffset => some (.command, 0x5B)
  | .probeBaudRead => some (.command, 0x0F)
  | .probeBitTest => some (.command, 0x91)
  | .cmdPulseTerminate => some (.command, 0xF1)
  | .cmdChmodPulse => some (.command, 0xED)
  | .cfgPulse5VInfinite => some (.command, 0x3F)
  | .cmdSearchRom => some (.data, 0xF0)
  | .cmdSearchAlarm => some (.data, 0xEC)
  | .cmdSearchAccelOn => some (.command, 0xB1)
  | .cmdSearchAccelOff => some (.command, 0xA1)
  | _ => none

/-- The values of R53 written out. -/
def functionBits : FunctionSelect → Byte
  | .bit => 0x00
  | .searchOff => 0x20
  | .searchOn => 0x30
  | .reset => 0x40
  | .chmod => 0x60

/-- The values of R54 written out. -/
def speedBits : SpeedSelect → Byte
  | .standard => 0x00
  | .flex => 0x04
  | .overdrive => 0x08
  | .pulse => 0x0C

/-- The values of R57 written out. -/
def parameterBits : ParameterSelect → Byte
  | .parmRead => 0x00
  | .slew => 0x10
  | .pulse12V => 0x20
  | .pulse5V => 0x30
  | .write1Low => 0x40
  | .sampleOffset => 0x50
  | .activePullupTime => 0x60
  | .baudrate => 0x70

/-- Presence from a status byte (R104). -/
def presenceBits (b : Byte) : Bool := decide (b &&& 0x03#8 = 1#8 ∨ b &&& 0x03#8 = 2#8)

/-- The acceptance of a detect response (R108) at the default masks. -/
def detectAccepts (r : List Byte) : Bool := decide (r.getD 3 0 = 0#8 ∧ r.getD 4 0 &&& 0xFC#8 = 0x90#8)

/-- The calls by which `BUS_RESET` makes the level Normal and the mode Command (R103, R110). -/
def cascadeCalls (b : Bus) : List Call :=
  if b.level = .normal then modeSwitchCalls b.mode .command
  else modeSwitchCalls b.mode .command ++ [.write [0xF1, 0xED, 0xF1], .read 2]

/-- How many bytes the cascade reads. -/
def cascadeBytes (b : Bus) : Nat := if b.level = .normal then 0 else 2

/-- The cascade is not needed, or its two confirmation bytes are accepted (R110). -/
def cascadeAccepted (s : State) : Prop :=
  s.bus.level = .normal ∨ (s.port.byteAt 0 &&& 0xE0#8 = 0xE0#8 ∧ s.port.byteAt 1 &&& 0xE0#8 = 0xE0#8)

/-- The registers after a `BUS_RESET` whose cascade was not rejected. -/
def readyBus : Bus := { mode := .command, level := .normal }

/-- The write and the read of a level change (R110, R111). -/
def levelExchange (target : Level) : List Call :=
  if target = .normal then [.write [0xF1, 0xED, 0xF1], .read 2] else [.write [0x3F, 0xED], .read 1]

/-- All the calls a `BUS_LEVEL` to another level can make, in order: those of the fallback only after a rejection (R109). -/
def levelCallsAll (target : Level) (m0 : Mode) : List Call :=
  modeSwitchCalls m0 .command ++ levelExchange target ++ detectCalls

/-- How many confirmation bytes a level change reads (R66). -/
def levelBytes (target : Level) : Nat := if target = .normal then 2 else 1

/-- The confirmation test of a level change on the next unread bytes (R110, R111). -/
def levelConfirmed (target : Level) (p : Port) : Prop :=
  if target = .normal then p.byteAt 0 &&& 0xE0#8 = 0xE0#8 ∧ p.byteAt 1 &&& 0xE0#8 = 0xE0#8
  else p.byteAt 0 &&& 0x81#8 = 0#8

/-- The calls of a whole `SEARCH_NEXT` (R132 (b), R43): the first reset, E1, F0 or EC, E3, B1, E1, the frame, the read of 17,
E3, A1, and the trailing reset. -/
def searchCalls (s : State) : List Call :=
  cascadeCalls s.bus ++ [.write [0xC1], .read 1] ++
    [.write [0xE1], .write [if s.srch.alarmOnly then 0xEC else 0xF0], .write [0xE3], .write [0xB1], .write [0xE1],
      .write (encodeFrame params s.srch.rom s.srch.lastDiscrepancy), .read 17, .write [0xE3], .write [0xA1],
      .write [0xC1], .read 1]

/-- What a `SEARCH_NEXT` decodes when its calls succeed. -/
def searchDecoded (s : State) : Decoded :=
  decodeResponse params (s.port.bytesFrom (cascadeBytes s.bus + 1) 17)

/-- The premises under which a `SEARCH_NEXT` reaches step 6 without a fallback: Active, every call succeeds, the
cascade is not rejected, a device is present, and both status bytes are in sync. -/
structure SearchReachesStep6 (s : State) : Prop where
  active : s.srch.exhausted = false
  cascade : cascadeAccepted s
  served : s.port.grants (searchCalls s).length
  firstSync : s.port.byteAt (cascadeBytes s.bus) &&& 0x1C#8 = 0x0C#8
  present : presenceBits (s.port.byteAt (cascadeBytes s.bus)) = true
  lastSync : s.port.byteAt (cascadeBytes s.bus + 18) &&& 0x1C#8 = 0x0C#8

/-- The numbers of the levels (R27), in the order of listing. -/
def levelNumber : Level → Nat
  | .normal => 0
  | .overdrive => 1
  | .strong5 => 2
  | .program => 3
  | .break_ => 4

/-- A write in a history, complete or cut short. -/
def isWriteEvent : Event → Bool
  | .write _ => true
  | .cut (.write _) _ _ => true
  | _ => false

/-- A read in a history, complete or cut short. -/
def isReadEvent : Event → Bool
  | .read _ => true
  | .cut (.read _) _ _ => true
  | _ => false

/-- A rate change in a history, complete or cut short: it belongs to a `BUS_DETECT`. -/
def isBaudEvent : Event → Bool
  | .setBaud _ => true
  | .cut (.setBaud _) _ _ => true
  | _ => false

/-- Of the results of an item, those of a call that was cut short: an `E_IO`, or none because the host dropped it. -/
def endsAtACall : Option Reply → Bool
  | none => true
  | some (.error (.io _)) => true
  | _ => false

end Sys2Proof.Machine
end

