-- ==== Sys2Proof/Certificates/Slice0/Obligations.lean ====
section
/-! DEFINITION. The statements for the provers. `exec` and `step` use the configuration `params` (R5's values). A result is
stated as `exec i s = .next t` with the whole next state, so every register, the history and the cursor not named in
it are unchanged: the block has no memory (R30, R44), and what it sends stands in `port.history`. `Port.grants k` says
that the next `k` transport calls succeed; the bytes they read are any bytes. -/

open Sys2Proof Sys2Proof.Machine

/-! ### CRC8 unit -/

/-- R81: `CRC_NEW` sets `CRC.state` to 0 and changes nothing else. -/
def Obligations.CrcNewClearsTheState : Prop :=
  ∀ s : State, exec .crcNew s = .next { s with crc := { state := 0 }, reply := some .done }

/-- R82: `CRC_CALC byte` replaces `CRC.state` by `CRC_TABLE[CRC.state ^ byte]`, returns the new value and changes nothing
else. That it returns the new value is the spec's own choice (D28: log entry 15). -/
def Obligations.CrcCalcTakesTheTableEntry : Prop :=
  ∀ (b : Byte) (s : State),
    exec (.crcCalc b) s =
      .next { s with
        crc := { state := crcTable params (s.crc.state ^^^ b) }
        reply := some (.state (crcTable params (s.crc.state ^^^ b))) }

/-- R84: the table computed by the loop of R83 is the printed listing, all 256 entries. -/
def Obligations.CrcTableIsTheListing : Prop :=
  crcListing.length = 256 ∧ ∀ i : Byte, crcListing[i.toNat]? = some (crcTable params i)

/-- R83: one `CRC_CALC byte` equals eight steps of the bit-serial algorithm. That the new state is also the result is
the spec's own choice (D28: log entry 15). -/
def Obligations.CrcCalcIsEightSerialSteps : Prop :=
  ∀ (b : Byte) (s : State),
    exec (.crcCalc b) s =
      .next { s with
        crc := { state := crcSerial 8 s.crc.state b }
        reply := some (.state (crcSerial 8 s.crc.state b)) }

/-- R86 (b), (c): `CRC_TABLE` is linear over exclusive or, sends 0 to 0 and is a bijection. -/
def Obligations.CrcTableIsLinearBijection : Prop :=
  crcTable params 0 = 0 ∧
  (∀ a b : Byte, crcTable params (a ^^^ b) = crcTable params a ^^^ crcTable params b) ∧
  Function.Bijective (crcTable params)

/-- R86 (d), (e): appending the checksum folds to 0, for any byte list; an 8-byte code folds to 0 exactly when its byte 7 is
the fold of bytes 0 to 6 (R61); eight zero bytes fold to 0. -/
def Obligations.AppendedChecksumFoldsToZero : Prop :=
  (∀ B : List Byte, crcFold params (B ++ [crcFold params B]) = 0) ∧
  (∀ rom : List Byte, rom.length = 8 → (crcFold params rom = 0 ↔ rom.getD 7 0 = crcFold params (rom.take 7))) ∧
  crcFold params (zeroBytes 8) = 0

/-! ### Codec -/

/-- R92, R95: `ENCODE` completes for every 8-byte ROM and every position 0 to 64 with a 16-byte frame in which the
data bits are 0 and the steering bits replay the ROM below `ld - 1`, are 1 at `ld - 1` and 0 above (all 0 for `ld =
0`); a position above 64 is refused. The place of the steering bit, the bit order and the refusal are the spec's own
choices (D7, D6: log entry 15; D30: log entry 14). -/
def Obligations.EncodeBuildsTheSearchFrame : Prop :=
  ∀ (rom : List Byte) (ld : Nat) (s : State), rom.length = 8 →
    (64 < ld → exec (.encode rom ld) s = .refused .operandOutOfRange) ∧
    (ld ≤ 64 → ∃ F, exec (.encode rom ld) s = .next { s with reply := some (.frame F) } ∧ F.length = 16 ∧
      ∀ i, i < 64 →
        bit F (2 * i + 1) = false ∧
        bit F (2 * i) =
          (if ld = 0 then false else if i < ld - 1 then bit rom i else if i = ld - 1 then true else false))

/-- R47, R92 (e): every byte of a frame `ENCODE` builds has bits 1, 3, 5 and 7 clear and is not 0xE3. The places of
the two bits of a pair are the spec's own choice (D7, D6: log entry 15). -/
def Obligations.FrameBytesAreNeverASwitchByte : Prop :=
  ∀ (rom : List Byte) (ld : Nat) (b : Byte), b ∈ encodeFrame params rom ld → b &&& 0xAA#8 = 0#8 ∧ b ≠ 0xE3#8

/-- R93: `Quirk` keeps byte 0, swaps bytes 1 and 2, 3 and 4, up to 15 and 16, and is its own inverse. -/
def Obligations.QuirkSwapsEachPair : Prop :=
  ∀ R : List Byte, R.length = 17 →
    (quirk R).length = 17 ∧ (quirk R)[0]? = R[0]? ∧
    (∀ j, j < 8 → (quirk R)[2 * j + 1]? = R[2 * j + 2]? ∧ (quirk R)[2 * j + 2]? = R[2 * j + 1]?) ∧
    quirk (quirk R) = R

/-- R94: `DECODE` completes for every 17-byte response. With `F` bytes 1 to 16 after the swap of R93, the ROM bits are
the odd bits of the pairs, `last_zero_position` is the highest `i + 1` with steering 1 and data 0, and
`family_discrepancy` the highest such with `i` below 8. Byte 0 has no influence. The places of the bits in a byte and
of a pair in the frame are the spec's own choices (D6, D7: log entry 15). -/
def Obligations.DecodeReadsTheResponse : Prop :=
  ∀ (R : List Byte) (s : State), R.length = 17 →
    ∃ rom lz fam, exec (.decode R) s = .next { s with reply := some (.decoded rom lz fam) } ∧
      rom.length = 8 ∧
      (∀ i, i < 64 → bit rom i = bit ((quirk R).drop 1) (2 * i + 1)) ∧
      isLastPosition (fun i => bit ((quirk R).drop 1) (2 * i) && !bit ((quirk R).drop 1) (2 * i + 1)) 64 lz ∧
      isLastPosition (fun i => bit ((quirk R).drop 1) (2 * i) && !bit ((quirk R).drop 1) (2 * i + 1)) 8 fam

/-- R96: with `S` the frame of `ENCODE R k`, `E` any 16 bytes with the steering bits of `S` and the data bits of `R`,
and the raw response `Quirk([x] ++ E)`, `DECODE` gives back `R`, and the last position where `S` steers to 1 and `R`
has a 0. The places of the bits are the spec's own choice (D7, D6: log entry 15). -/
def Obligations.CodecRoundTrip : Prop :=
  ∀ (R E : List Byte) (k : Nat) (x : Byte), R.length = 8 → k ≤ 64 → E.length = 16 →
    (∀ i, i < 64 → bit E (2 * i + 1) = bit R i ∧ bit E (2 * i) = bit (encodeFrame params R k) (2 * i)) →
    (decodeResponse params (quirk (x :: E))).rom = R ∧
    isLastPosition (fun i => bit (encodeFrame params R k) (2 * i) && !bit R i) 64 (decodeResponse params (quirk (x :: E))).lastZero

/-! ### The transport -/

/-- R31, R32: a write that succeeds sends its bytes, one that fails has sent a part of them from the front; a read
that succeeds delivers the oldest `n` unread bytes and removes them, one that fails delivers nothing and has removed
at most `n - 1` of them. Nothing but the port changes. What a failing call leaves is as log entry 11 has it. -/
def Obligations.TransportReadsAndWritesInOrder : Prop :=
  (∀ (B : List Byte) (s : State), s.port.verdictAt 0 = .ok →
    ∃ p, transport (.write B) s = .ok [] { s with port := p } ∧ p.history = s.port.history ++ [.write B] ∧
      ∀ j, p.byteAt j = s.port.byteAt j) ∧
  (∀ (B : List Byte) (s : State) (k : IoKind) (d : Nat), s.port.verdictAt 0 = .fail k d →
    ∃ p e, transport (.write B) s = .stop (.raised (.io k)) { s with port := p } ∧ p.history = s.port.history ++ [e] ∧
      e.sent = B.take d ∧ ∀ j, p.byteAt j = s.port.byteAt j) ∧
  (∀ (n : Nat) (s : State), s.port.verdictAt 0 = .ok →
    ∃ p, transport (.read n) s = .ok ((List.range n).map s.port.byteAt) { s with port := p } ∧
      ∀ j, p.byteAt j = s.port.byteAt (n + j)) ∧
  (∀ (n : Nat) (s : State) (k : IoKind) (d : Nat), s.port.verdictAt 0 = .fail k d → 1 ≤ n →
    ∃ p m, transport (.read n) s = .stop (.raised (.io k)) { s with port := p } ∧ m ≤ n - 1 ∧
      ∀ j, p.byteAt j = s.port.byteAt (m + j))

/-- R102, for every configuration, whatever the predicate `NOTIFY`: a `ReadFiltered(n)` that returns gives `n` bytes
after at most `n` additional reads and changes nothing but the port; in Data mode, or for one byte, or when the bytes
read hold no notification, it gives the bytes read, with one read. That a read of one byte or in Data mode is not
filtered and the bound of `n` additional reads are the spec's own choice (D21: log entry 15). -/
def Obligations.ReadFilteredKeepsTheLength : Prop :=
  ∀ (c : Config) (n : Nat) (s t : State) (r : List Byte), readFiltered c n s = .ok r t →
    r.length = n ∧ t.port.calls ≤ s.port.calls + 1 + n ∧ t = { s with port := t.port } ∧
    ((s.bus.mode = .data ∨ n < 2 ∨ ∀ b, b ∈ s.port.incoming n → c.notify b = false) →
      r = s.port.incoming n ∧ t.port.calls = s.port.calls + 1)

/-- R102, in Command mode, for any predicate. First clause: when the byte at index `i`, the last index included, is a
notification and none of the other bytes the scan examines is one, the filter removes it, reads one filler byte and
puts it last; the byte that slides into index `i` is not examined, so nothing is asked of it (D21). Second clause:
when `i` is not the last index, the filler is examined at index `n-1`; if it is a notification, it is replaced by one
more filler, which is not examined. The order of the scan is the spec's own choice (D21: log entry 15). -/
def Obligations.ReadFilteredRemovesANotification : Prop :=
  (∀ (c : Config) (n i : Nat) (s : State), 2 ≤ n → i < n → s.bus.mode = .command → s.port.grants 2 →
    c.notify (s.port.byteAt i) = true →
    (∀ j, j < i ∨ (i + 2 ≤ j ∧ j ≤ n) → c.notify (s.port.byteAt j) = false) →
    readFiltered c n s =
      .ok ((List.range n).map fun k => s.port.byteAt (if k < i then k else k + 1))
        { s with port := s.port.perform [.read n, .read 1] }) ∧
  (∀ (c : Config) (n i : Nat) (s : State), i + 1 < n → s.bus.mode = .command → s.port.grants 3 →
    c.notify (s.port.byteAt i) = true → c.notify (s.port.byteAt n) = true →
    (∀ j, j < i ∨ (i + 2 ≤ j ∧ j < n) → c.notify (s.port.byteAt j) = false) →
    readFiltered c n s =
      .ok ((List.range n).map fun k => s.port.byteAt (if k < i then k else if k < n - 1 then k + 1 else n + 1))
        { s with port := s.port.perform [.read n, .read 1, .read 1] })

/-- C1: the default predicate is false for every byte. That the default is the literal of band1 is the spec's own
choice (D19: log entry 15). -/
def Obligations.DefaultNotifyIsNeverTrue : Prop := ∀ b : Byte, params.notify b = false

/-! ### Sending one item (log entry 6: the meaning of these rows is the block's own act of sending; the model's choice) -/

/-- R101: a mode switch sends the switch byte and then writes `BUS.mode`; it sends nothing when the mode already is
the one wanted; when the write fails `BUS.mode` keeps its old value, the switch byte may have left, and the result is
that `E_IO`. What such a row does is the model's choice (log entry 6). That the register is written after the write is
the spec's own choice (D25: log entry 15). -/
def Obligations.ModeSwitchFollowsTheWrite : Prop :=
  ∀ (m : Mode) (s : State),
    (s.port.grants (modeSwitchCalls s.bus.mode m).length →
      exec (switchInstr m) s =
        .next { s.afterCalls (modeSwitchCalls s.bus.mode m) { s.bus with mode := m } with reply := some .done }) ∧
    (∀ k d, s.bus.mode ≠ m → s.port.verdictAt 0 = .fail k d →
      exec (switchInstr m) s =
        .next { s with
          port := s.port.cut (.write [modeByte params m]) d (.raised (.io k))
          reply := some (.error (.io k)) })

/-- Each of the fourteen fixed bytes of R59 that are not switch bytes: `EnsureMode` for its chip mode, then one write
of its value; nothing else changes. What such a row does is the model's choice (log entry 6). The modes, the moment of
the register write and some of the bytes are the spec's own choices (D9, D12 to D14, D17, D23, D25: log entry 15). -/
def Obligations.FixedBytesAreSentInTheirMode : Prop :=
  ∀ (i : Instr) (m : Mode) (b : Byte) (s : State), fixedByteRow i = some (m, b) →
    s.port.grants ((modeSwitchCalls s.bus.mode m).length + 1) →
    exec i s =
      .next { s.afterCalls (modeSwitchCalls s.bus.mode m ++ [.write [b]]) { s.bus with mode := m } with
        reply := some .done }

/-- A frame byte (R62), a COMM byte (R52) and a CONFIG byte (R56): sent in Data mode, Command mode and Command mode;
the COMM byte is `0x81 | function | speed`, the CONFIG byte `0x01 | parameter | value` with the value code in bits 3
to 1. What such a row does is the model's choice (log entry 6). The modes, the moment of the register write and the
place of a frame's data bits are the spec's own choices (D23, D25, D7: log entry 15). -/
def Obligations.FormatBytesAreComposedAndSent : Prop :=
  (∀ (b : Byte) (s : State), b &&& 0xAA#8 = 0#8 → s.port.grants ((modeSwitchCalls s.bus.mode .data).length + 1) →
    exec (.frameByte b) s =
      .next { s.afterCalls (modeSwitchCalls s.bus.mode .data ++ [.write [b]]) { s.bus with mode := .data } with
        reply := some .done }) ∧
  (∀ (f : FunctionSelect) (sp : SpeedSelect) (s : State), (Instr.commFormat f sp).wellFormed = true →
    s.port.grants ((modeSwitchCalls s.bus.mode .command).length + 1) →
    exec (.commFormat f sp) s =
      .next { s.afterCalls (modeSwitchCalls s.bus.mode .command ++ [.write [0x81#8 ||| functionBits f ||| speedBits sp]])
        { s.bus with mode := .command } with reply := some .done }) ∧
  (∀ (p : ParameterSelect) (v : BitVec 3) (s : State), (Instr.configFormat p v).wellFormed = true →
    s.port.grants ((modeSwitchCalls s.bus.mode .command).length + 1) →
    exec (.configFormat p v) s =
      .next { s.afterCalls
        (modeSwitchCalls s.bus.mode .command ++ [.write [BitVec.ofNat 8 (1 + (parameterBits p).toNat + 2 * v.toNat)]])
        { s.bus with mode := .command } with reply := some .done })

/-- The break of R107: the rate is lowered to 2400, the filler written, the rate restored to 9600; the mode is not
looked at. What such a row does is the model's choice (log entry 6). The rates and the filler are the spec's own
choices (D10, D11: log entry 15). -/
def Obligations.BreakFillerIsSentAtTheLowRate : Prop :=
  ∀ s : State, s.port.grants 3 →
    exec .breakFiller s =
      .next { s.afterCalls [.setBaud 2400, .write [0x00], .setBaud 9600] s.bus with reply := some .done } ∧
    (s.port.perform [.setBaud 2400, .write [0x00], .setBaud 9600]).baud = some 9600

/-! ### The outcome of one received item (log entry 6: the model's choice) -/

/-- STATUS (R104, R105): a byte with bits 4 to 2 equal to 0b011 gives presence; any other byte runs the fallback:
presence from the same byte when it is accepted, `E_SYNC` when not. What such a row does is the model's choice (log
entry 6). The calls of the fallback, its `E_SYNC` and the untouched level are the spec's own choices (D8, D10 to D13,
D15, D20, D22, D37: log entry 15). -/
def Obligations.StatusByteOutcome : Prop :=
  ∀ (b : Byte) (s : State),
    (b &&& 0x1C#8 = 0x0C#8 → exec (.status b) s = .next { s with reply := some (.presence (presenceBits b)) }) ∧
    (b &&& 0x1C#8 ≠ 0x0C#8 → s.port.grants 8 →
      exec (.status b) s =
        .next { s.afterCalls detectCalls { s.bus with mode := .command } with
          reply := some (if detectAccepts (s.port.bytesFrom 0 5) then .presence (presenceBits b) else .error .sync) })

/-- RESP5, CONFIRM_NORMAL and CONFIRM_PULSE (R66, R108, R110, R111): the acceptance tests; nothing else changes. What
such a row does is the model's choice (log entry 6). The masks are the spec's own choices (D15, D16, D18: log entry
15). -/
def Obligations.ResponsesAreAcceptedByTheirMasks : Prop :=
  (∀ (r : List Byte) (s : State), r.length = 5 →
    exec (.resp5 r) s = .next { s with reply := some (.synced (detectAccepts r)) }) ∧
  (∀ (c0 c1 : Byte) (s : State),
    exec (.confirmNormal c0 c1) s =
      .next { s with reply := some (.accepted (decide (c0 &&& 0xE0#8 = 0xE0#8 ∧ c1 &&& 0xE0#8 = 0xE0#8))) }) ∧
  (∀ (c0 : Byte) (s : State),
    exec (.confirmPulse c0) s = .next { s with reply := some (.accepted (decide (c0 &&& 0x81#8 = 0#8))) })

/-- RESP17 gives what `DECODE` of the same 17 bytes gives (R63, R94); a byte met by the filter stands as it is, since
no byte is a notification (R67, C1). What such a row does is the model's choice (log entry 6). The default predicate
is the spec's own choice (D19: log entry 15). -/
def Obligations.SearchResponseAndNotificationOutcome : Prop :=
  (∀ (r : List Byte) (s : State), r.length = 17 →
    ∃ t, exec (.resp17 r) s = .next t ∧ exec (.decode r) s = .next t) ∧
  (∀ (b : Byte) (s : State), exec (.notification b) s = .next { s with reply := some (.responseByte b) })

/-- ROM_CODE (R61): an 8-byte code is delivered exactly when its CRC is 0 and its byte 0 is not 0; otherwise the error
names the first failing test; the registers do not change. What such a row does is the model's choice (log entry 6).
The order of the tests is the spec's own choice (D40: log entry 15). -/
def Obligations.RomCodeIsDeliveredWhenValid : Prop :=
  ∀ (rom : List Byte) (s : State), rom.length = 8 →
    exec (.romCode rom) s =
      .next { s with reply := some (
        if crcFold params rom ≠ 0 then .error (.data .crc)
        else if rom.getD 0 0 = 0 then .error (.data .family) else .rom rom) }

/-! ### Bus Controller -/

/-- R107, R108: when its calls succeed, `BUS_DETECT` makes exactly the eight calls of program P4, in any state, leaves
`BUS.mode` = Command and `BUS.level` alone, and answers true exactly when byte 3 is 0 and byte 4 is 0x90 under the
mask 0xFC; when call `j` fails, the calls before it happened, none after it did, and the result is that `E_IO`, with
`BUS.mode` = Command all the same. The rates, the filler, the second delay, two probe bytes, the masks, the untouched
level, the cut into writes and the `E_IO` of a rate change are the spec's own choices (D8, D10 to D13, D15, D20, D33,
D37: log entry 15); what a failing call leaves is as log entry 11 has it. -/
def Obligations.BusDetectExchange : Prop :=
  (∀ s : State, s.port.grants 8 →
    exec .busDetect s =
      .next { s.afterCalls detectCalls { s.bus with mode := .command } with
        reply := some (.synced (detectAccepts (s.port.bytesFrom 0 5))) }) ∧
  (∀ (s : State) (j : Nat) (call : Call) (k : IoKind) (d : Nat), detectCalls[j]? = some call → call.canFail = true →
    s.port.grants j → s.port.verdictAt j = .fail k d →
    exec .busDetect s =
      .next { s with
        bus := { s.bus with mode := .command }
        port := (s.port.perform (detectCalls.take j)).cut call d (.raised (.io k))
        reply := some (.error (.io k)) })

/-- R108, at the masks of D15 (log entry 15): of the responses of five bytes, the model's acceptance test takes exactly those
whose byte 3 is 0x00 and whose byte 4 is 0x90, 0x91, 0x92 or 0x93, 4 of the 65536 pairs; five bytes 0xFF and five bytes
0x00 are not taken. -/
def Obligations.DetectNeverAcceptsGarbage : Prop :=
  (∀ r : List Byte, r.length = 5 →
    (accept params r = true ↔
      r.getD 3 0 = 0#8 ∧
        (r.getD 4 0 = 0x90#8 ∨ r.getD 4 0 = 0x91#8 ∨ r.getD 4 0 = 0x92#8 ∨ r.getD 4 0 = 0x93#8))) ∧
  accept params (List.replicate 5 0xFF#8) = false ∧ accept params (List.replicate 5 0x00#8) = false

/-- R153, R107: however a `BUS_DETECT` ends, `BUS.mode` is Command, `BUS.level`, the CRC register and the cursor are
as before, and its result is a Boolean, an `E_IO`, or none (abandoned): never `E_SYNC` and never `E_DATA`. That the
level is as before and that a failing rate change is an `E_IO` are the spec's own choices (D20, D33: log entry 15),
and so is what a dropped operation leaves (D29: log entries 11 and 16). -/
def Obligations.BusDetectNeverRaisesSync : Prop :=
  ∀ s : State, ∃ t, exec .busDetect s = .next t ∧ t.bus = { s.bus with mode := .command } ∧ t.crc = s.crc ∧
    t.srch = s.srch ∧ ((∃ b, t.reply = some (.synced b)) ∨ (∃ k, t.reply = some (.error (.io k))) ∨ t.reply = none)

/-- R103 to R106, R110: from any mode and level, when its calls succeed and the cascade is not rejected, `BUS_RESET`
makes the level Normal and the mode Command, sends 0xC1 and reads one byte; a byte in sync gives presence; any other
byte runs the fallback, after which the same presence is given, or `E_SYNC` raised. The bytes and masks of the cascade
and of the fallback, and that a failed fallback raises, are the spec's own choices (D8 to D16, D20, D22, D37: log
entry 15), and so are the modes and the moments of the register writes (D23, D25). -/
def Obligations.BusResetExchange : Prop :=
  ∀ s : State, cascadeAccepted s → s.port.grants ((cascadeCalls s.bus).length + 2) →
    (s.port.byteAt (cascadeBytes s.bus) &&& 0x1C#8 = 0x0C#8 →
      exec .busReset s =
        .next { s.afterCalls (cascadeCalls s.bus ++ [.write [0xC1], .read 1]) readyBus with
          reply := some (.presence (presenceBits (s.port.byteAt (cascadeBytes s.bus)))) }) ∧
    (s.port.byteAt (cascadeBytes s.bus) &&& 0x1C#8 ≠ 0x0C#8 → s.port.grants ((cascadeCalls s.bus).length + 10) →
      exec .busReset s =
        .next { s.afterCalls (cascadeCalls s.bus ++ [.write [0xC1], .read 1] ++ detectCalls) readyBus with
          reply := some (
            if detectAccepts (s.port.bytesFrom (cascadeBytes s.bus + 1) 5) then
              .presence (presenceBits (s.port.byteAt (cascadeBytes s.bus)))
            else .error .sync) })

/-- R103 (a), D31, R106: after a cascade that is rejected. First clause: its fallback answers false: `E_SYNC`, the level kept,
no reset byte sent. Second clause: its fallback succeeds and the status byte is in sync: the reset command is sent all
the same, presence is the result, and the level stays non-Normal. Third clause: the status byte is out of sync: a
second fallback runs, after which the same presence is given or `E_SYNC` raised. The bytes and masks, the level left as
it is and the way on are the spec's own choices (D8 to D16, D20, D22, D25, D31, D37: log entry 15). -/
def Obligations.BusResetGoesOnAfterARejectedCascade : Prop :=
  ∀ s : State, s.bus.level ≠ .normal → ¬ cascadeAccepted s →
    (s.port.grants ((cascadeCalls s.bus).length + 8) → detectAccepts (s.port.bytesFrom 2 5) = false →
      exec .busReset s =
        .next { s.afterCalls (cascadeCalls s.bus ++ detectCalls) { s.bus with mode := .command } with
          reply := some (.error .sync) }) ∧
    (s.port.grants ((cascadeCalls s.bus).length + 10) → detectAccepts (s.port.bytesFrom 2 5) = true →
      s.port.byteAt 7 &&& 0x1C#8 = 0x0C#8 →
      exec .busReset s =
        .next { s.afterCalls (cascadeCalls s.bus ++ detectCalls ++ [.write [0xC1], .read 1])
          { s.bus with mode := .command } with
          reply := some (.presence (presenceBits (s.port.byteAt 7))) }) ∧
    (s.port.grants ((cascadeCalls s.bus).length + 18) → detectAccepts (s.port.bytesFrom 2 5) = true →
      s.port.byteAt 7 &&& 0x1C#8 ≠ 0x0C#8 →
      exec .busReset s =
        .next { s.afterCalls (cascadeCalls s.bus ++ detectCalls ++ [.write [0xC1], .read 1] ++ detectCalls)
          { s.bus with mode := .command } with
          reply := some (
            if detectAccepts (s.port.bytesFrom 8 5) then .presence (presenceBits (s.port.byteAt 7)) else .error .sync) })

/-- R109 to R112, R160: `BUS_LEVEL` to the current level does nothing. To another level it sends [F1 ED F1] and reads
2 bytes (Normal) or sends [3F ED] and reads 1 byte (any other target), in Command mode; accepted, the level is the
target; rejected, the fallback runs, the level is unchanged, and the old level is the result or `E_SYNC` is raised.
When one of its calls fails, the calls before it happened, none after it did, the result is that `E_IO`, the level is
the old one, and the mode is the old one if the switch byte's write failed, else Command. The bytes and masks, the
failed fallback and the moment of the register writes are the spec's own choices (D8, D10 to D18, D20, D22, D23, D25,
D33, D37: log entry 15); what a failing call leaves is as log entry 11 has it. -/
def Obligations.BusLevelExchange : Prop :=
  ∀ (target : Level) (s : State),
    (target = s.bus.level → exec (.busLevel target) s = .next { s with reply := some (.level target) }) ∧
    (target ≠ s.bus.level → levelConfirmed target s.port →
      s.port.grants ((modeSwitchCalls s.bus.mode .command).length + 2) →
      exec (.busLevel target) s =
        .next { s.afterCalls (modeSwitchCalls s.bus.mode .command ++ levelExchange target)
          { mode := .command, level := target } with reply := some (.level target) }) ∧
    (target ≠ s.bus.level → ¬ levelConfirmed target s.port →
      s.port.grants ((modeSwitchCalls s.bus.mode .command).length + 10) →
      exec (.busLevel target) s =
        .next { s.afterCalls (modeSwitchCalls s.bus.mode .command ++ levelExchange target ++ detectCalls)
          { s.bus with mode := .command } with
          reply := some (
            if detectAccepts (s.port.bytesFrom (levelBytes target) 5) then .level s.bus.level else .error .sync) }) ∧
    (∀ (j : Nat) (call : Call) (k : IoKind) (d : Nat), target ≠ s.bus.level →
      j < (modeSwitchCalls s.bus.mode .command).length + 2 ∨ ¬ levelConfirmed target s.port →
      (levelCallsAll target s.bus.mode)[j]? = some call → call.canFail = true →
      s.port.grants j → s.port.verdictAt j = .fail k d →
      exec (.busLevel target) s =
        .next { s with
          bus := { s.bus with
            mode := if j < (modeSwitchCalls s.bus.mode .command).length then s.bus.mode else .command }
          port := (s.port.perform ((levelCallsAll target s.bus.mode).take j)).cut call d (.raised (.io k))
          reply := some (.error (.io k)) })

/-! ### Search Engine -/

/-- R131: `SEARCH_NEW` writes the five cursor registers and nothing else. The zeros of `SRCH.rom` and of
`SRCH.last_family_discrepancy` are the spec's own choice (D4: log entry 15). -/
def Obligations.SearchNewWritesAFreshCursor : Prop :=
  ∀ (a : Bool) (s : State),
    exec (.searchNew a) s =
      .next { s with
        srch := { alarmOnly := a, rom := [0, 0, 0, 0, 0, 0, 0, 0], lastDiscrepancy := 0, lastFamilyDiscrepancy := 0,
                  exhausted := false }
        reply := some .done }

/-- R132 step 1, R130: an Exhausted engine answers `NoMoreDevices` with no transport event and no register change.
That the cursor stands in registers of the block is the spec's own choice (D4: log entry 15). -/
def Obligations.ExhaustedSearchDoesNoIO : Prop :=
  ∀ s : State, s.srch.exhausted = true → exec .searchNext s = .next { s with reply := some .noMoreDevices }

/-- R132 step 2: an Active engine that finds no presence answers `NoMoreDevices` after the calls of its `BUS_RESET`;
the cursor is unchanged. The bytes and masks of the cascade and the unchanged cursor are the spec's own choices (D8,
D9, D14, D16, D23, D25: log entry 15). -/
def Obligations.EmptyBusLeavesTheCursor : Prop :=
  ∀ s : State, s.srch.exhausted = false → cascadeAccepted s → s.port.grants ((cascadeCalls s.bus).length + 2) →
    s.port.byteAt (cascadeBytes s.bus) &&& 0x1C#8 = 0x0C#8 → presenceBits (s.port.byteAt (cascadeBytes s.bus)) = false →
    exec .searchNext s =
      .next { s.afterCalls (cascadeCalls s.bus ++ [.write [0xC1], .read 1]) readyBus with reply := some .noMoreDevices }

/-- R132 to R134, R137, R43: a `SEARCH_NEXT` whose response passes the three tests makes exactly the calls of
`searchCalls`, returns the decoded ROM code, and writes the cursor: the ROM, the new position, the family position if
one was found, and Exhausted when the new position is 0. The alarm variant differs in one byte. One write for each
send and the mode switches are decisions of the spec (D8, D23), and so are the bytes and masks of the cascade (D9,
D14, D16), the equality with 63 (D24), the moment of the cursor's write (D25) the trailing reset before it (D32), the
places of the bits (D6, D7) and the fold that leaves `CRC.state` alone (D28) (log entry 15). -/
def Obligations.SearchNextYieldsTheRom : Prop :=
  ∀ s : State, SearchReachesStep6 s →
    crcFold params (searchDecoded s).rom = 0 → (searchDecoded s).lastZero ≠ 63 → (searchDecoded s).rom.getD 0 0 ≠ 0 →
    exec .searchNext s =
      .next { s.afterCalls (searchCalls s) readyBus with
        srch :=
          { alarmOnly := s.srch.alarmOnly
            rom := (searchDecoded s).rom
            lastDiscrepancy := (searchDecoded s).lastZero
            lastFamilyDiscrepancy :=
              if (searchDecoded s).family = 0 then s.srch.lastFamilyDiscrepancy else (searchDecoded s).family
            exhausted := decide ((searchDecoded s).lastZero = 0) }
        reply := some (.rom (searchDecoded s).rom) }

/-- R133: a response that fails a test makes the same calls and ends with `E_DATA`, the reason being the first failing
test in the order CRC, discrepancy 63, family; the cursor is unchanged. The reported reason and its order (D40) and
the equality with 63 (D24) are the spec's own choices (log entry 15), and so are the calls (D8, D9, D14, D16, D23,
D32) the unchanged cursor (D25), the places of the bits (D6, D7) and the fold that leaves `CRC.state` alone (D28). -/
def Obligations.SearchNextRejectsACorruptResponse : Prop :=
  ∀ s : State, SearchReachesStep6 s →
    (crcFold params (searchDecoded s).rom ≠ 0 ∨ (searchDecoded s).lastZero = 63 ∨ (searchDecoded s).rom.getD 0 0 = 0) →
    exec .searchNext s =
      .next { s.afterCalls (searchCalls s) readyBus with
        reply := some (.error (.data (
          if crcFold params (searchDecoded s).rom ≠ 0 then .crc
          else if (searchDecoded s).lastZero = 63 then .discrepancy else .family))) }

/-- R134, R136: whatever the transport answers, a `SEARCH_NEXT` either returns a ROM code and writes the cursor with
it, or leaves the five cursor registers unchanged; `alarm_only` never changes. That the registers are written together
in the last step, and so are unchanged on every other end, is the spec's own choice (D25: log entry 15). -/
def Obligations.CursorIsWhollyOldOrWhollyNew : Prop :=
  ∀ s t : State, exec .searchNext s = .next t →
    t.srch.alarmOnly = s.srch.alarmOnly ∧
    ((∃ d : Decoded, t.reply = some (.rom d.rom) ∧ t.srch.rom = d.rom ∧ t.srch.lastDiscrepancy = d.lastZero ∧
        (d.family ≠ 0 → t.srch.lastFamilyDiscrepancy = d.family) ∧
        (d.family = 0 → t.srch.lastFamilyDiscrepancy = s.srch.lastFamilyDiscrepancy) ∧
        (t.srch.exhausted = true ↔ d.lastZero = 0) ∧ ∃ r, r.length = 17 ∧ d = decodeResponse params r) ∨
      ((∀ rom, t.reply ≠ some (.rom rom)) ∧ t.srch = s.srch))

/-- R135: every ROM code returned, whatever the transport answers, has 8 bytes, is CRC-valid and has a non-zero family byte. -/
def Obligations.ReturnedRomCodesAreValid : Prop :=
  ∀ (s t : State) (rom : List Byte), exec .searchNext s = .next t → t.reply = some (.rom rom) →
    rom.length = 8 ∧ crcFold params rom = 0 ∧ rom.getD 0 0 ≠ 0

/-- R192: on a path without a fallback, a `SEARCH_NEXT` makes at most 12 writes and 4 reads. The counts rest on how
sends are cut into writes and on the modes of the sends, the spec's own choices (D8, D23: log entry 15). -/
def Obligations.SearchNextIsBoundedWithoutResync : Prop :=
  ∀ (s t : State) (es : List Event), exec .searchNext s = .next t → t.port.history = s.port.history ++ es →
    (∀ e ∈ es, isBaudEvent e = false) → es.countP isWriteEvent ≤ 12 ∧ es.countP isReadEvent ≤ 4

/-! ### The whole machine -/

/-- Every instruction but the reserved codes, well formed, completes with a next state, in every state, whatever the
transport answers: no operation stops the block (R160, R161). That the block goes on after a dropped operation is the
spec's own choice (D29: log entry 16). -/
def Obligations.EveryWellFormedInstructionGoesOn : Prop :=
  ∀ (i : Instr) (s : State), i.wellFormed = true →
    i ∉ [Instr.reserved9, .reserved10, .reserved11, .reserved12, .reserved13, .reserved14, .reserved15] →
    ∃ t, exec i s = .next t

/-- R69, U1: OPSEL 9 to 15 are refused, in every state. The codes are the spec's own choice (D2: log entry 15). That
the refusal ends the run is the model's choice (log entry 14). -/
def Obligations.ReservedCodesAreRefused : Prop :=
  ∀ s : State,
    exec .reserved9 s = .refused (.reservedOpsel 9) ∧ exec .reserved10 s = .refused (.reservedOpsel 10) ∧
    exec .reserved11 s = .refused (.reservedOpsel 11) ∧ exec .reserved12 s = .refused (.reservedOpsel 12) ∧
    exec .reserved13 s = .refused (.reservedOpsel 13) ∧ exec .reserved14 s = .refused (.reservedOpsel 14) ∧
    exec .reserved15 s = .refused (.reservedOpsel 15)

/-- D30, U2: an `ENCODE` position above 64 is refused, in every state. So is every other instruction that is not well
formed: byte lists of another length, a frame byte with a data bit, a COMM or CONFIG composition that has a row of its
own. That an operand out of range is refused is the spec's own choice (D30), that the refusal ends the run the model's
(log entry 14). That the ill-formed wire rows are refused is the model's choice (log entry 6). -/
def Obligations.IllFormedOperandsAreRefused : Prop :=
  ∀ (i : Instr) (s : State), i.wellFormed = false → exec i s = .refused .operandOutOfRange

/-- R145, R11: `CRC.state` changes only through `CRC_NEW` and `CRC_CALC`; the cursor only through `SEARCH_NEW` and
`SEARCH_NEXT`; of the host operations, only the Bus Controller's and `SEARCH_NEXT` reach the transport or change
`BUS`. The cursor as registers, the search that leaves `CRC.state` alone and the lack of any other write by the host
are the spec's own choices (D4, D28, D43: log entry 15). -/
def Obligations.RegistersChangeOnlyThroughTheirOperations : Prop :=
  ∀ (i : Instr) (s t : State), exec i s = .next t →
    (t.crc ≠ s.crc → i = .crcNew ∨ ∃ b, i = .crcCalc b) ∧
    (t.srch ≠ s.srch → i = .searchNext ∨ ∃ a, i = .searchNew a) ∧
    (isHostOp i = true → t.bus ≠ s.bus ∨ t.port ≠ s.port →
      i = .busReset ∨ i = .busDetect ∨ i = .searchNext ∨ ∃ l, i = .busLevel l)

/-- R14, D20: `BUS.level` changes only to the target of a `BUS_LEVEL`, or to Normal in a `BUS_RESET` or a
`SEARCH_NEXT`. That the level is written on acceptance only, and not by a detect, are the spec's own choices (D25,
D20: log entry 15). -/
def Obligations.LevelChangesOnlyToTheTarget : Prop :=
  ∀ (i : Instr) (s t : State), exec i s = .next t → t.bus.level ≠ s.bus.level →
    i = .busLevel t.bus.level ∨ (t.bus.level = .normal ∧ (i = .busReset ∨ i = .searchNext))

/-- R160, R36: the history only grows. When the result is an `E_IO`, or there is none, the last event added is the one
call that was cut short and every other added call succeeded; otherwise all added calls succeeded. That a dropped
operation leaves the same is the spec's own choice (D29: log entries 11 and 16). So is the `E_IO` of a failing rate
change (D33: log entry 15). -/
def Obligations.ErrorsArePreciseAtTransportEvents : Prop :=
  ∀ (i : Instr) (s t : State), exec i s = .next t →
    ∃ es, t.port.history = s.port.history ++ es ∧ t.port.calls = s.port.calls + es.length ∧
      (endsAtACall t.reply = true → ∃ es' e, es = es' ++ [e] ∧ e.isCut = true ∧ ∀ e' ∈ es', e'.isCut = false) ∧
      (endsAtACall t.reply = false → ∀ e ∈ es, e.isCut = false)

/-- R59: whatever the transport answers, every byte a host operation puts on the transport is one that R59 lists. Some
of the listed bytes are the spec's own choices (D9, D11 to D14, D17: log entry 15). -/
def Obligations.OnlyListedBytesAreSent : Prop :=
  ∀ (i : Instr) (s t : State) (es : List Event), isHostOp i = true → exec i s = .next t →
    t.port.history = s.port.history ++ es → ∀ e ∈ es, ∀ b ∈ e.sent, isListedByte b = true

/-- R13, R64, R185: after a host operation in which every call succeeded, `BUS.mode` is the mode into which the bytes
sent, and the breaks, have brought a chip that was in the mode `BUS.mode` said before. (That a break leaves the chip
in Command mode is what R107 relies on, not a rule about the chip.) The modes of the sends and the moment of the
register write are the spec's own choices (D23, D25: log entry 15); the break in the comparison is the model's (log
entry 17). -/
def Obligations.ModeBookkeepingFollowsTheBytesSent : Prop :=
  ∀ (i : Instr) (s t : State) (es : List Event), isHostOp i = true → exec i s = .next t →
    t.port.history = s.port.history ++ es → (∀ e ∈ es, e.isCut = false) → t.bus.mode = chipModeAfter s.bus.mode es

/-- R192 (bounded operations): every instruction makes at most 50 transport calls. The number is counted from R103 to
R132 with the default predicate: 21 for the first reset with two fallbacks, 9 for the exchange, 20 for the trailing
reset. The number rests on how sends are cut into writes, on the modes of the sends, on what follows a fallback and on
the trailing reset, the spec's own choices (D8, D22, D23, D31, D32: log entry 15). -/
def Obligations.TransportCallsAreBounded : Prop :=
  ∀ (i : Instr) (s t : State), exec i s = .next t → t.port.calls ≤ s.port.calls + 50

/-- R136, R160: an `E_SYNC` leaves `BUS.mode` = Command and the cursor and the CRC register unchanged, whichever
instruction raised it. When `E_SYNC` is raised, that the cursor is then unchanged and that the search leaves
`CRC.state` alone are the spec's own choices (D22, D25, D28: log entry 15). -/
def Obligations.SyncErrorLeavesCommandMode : Prop :=
  ∀ (i : Instr) (s t : State), exec i s = .next t → t.reply = some (.error .sync) →
    t.bus.mode = .command ∧ t.srch = s.srch ∧ t.crc = s.crc

/-- R163: a host operation delivers no result exactly when its last event is a call at which the host dropped it; it
then leaves the CRC register, the cursor and the host side unchanged, and no call before that one was cut short. What
a dropped operation leaves, and that it delivers no result, are the spec's own choice (D29: log entries 11 and 16).
That the search leaves `CRC.state` alone is the spec's own choice too (D28: log entry 15). -/
def Obligations.AbandonedOperationDeliversNothing : Prop :=
  ∀ (i : Instr) (s t : State), isHostOp i = true → exec i s = .next t →
    (t.reply = none ↔ ∃ es c d, t.port.history = s.port.history ++ es ++ [.cut c d .abandoned]) ∧
    (∀ es c d, t.port.history = s.port.history ++ es ++ [.cut c d .abandoned] →
      t.crc = s.crc ∧ t.srch = s.srch ∧ t.requests = s.requests ∧ t.item = s.item ∧ ∀ e ∈ es, e.isCut = false)

/-- R11: no instruction but `CRC_CALC` reads `CRC.state`: with another value in it, every other instruction does the
same to everything else, and only `CRC_NEW` writes it. That the search neither reads nor writes `CRC.state` is the
spec's own choice (D28: log entry 15). -/
def Obligations.CrcStateIsReadOnlyByCrcCalc : Prop :=
  ∀ (i : Instr) (s t : State) (v : Byte), (∀ b, i ≠ .crcCalc b) → exec i s = .next t →
    exec i { s with crc := { state := v } } =
      .next { t with crc := { state := if i = .crcNew then 0 else v } }

/-- R20, R131, R134: every step keeps the invariant of the cursor. R20 gives its clauses (d) and (e) after a
successful step only; that the invariant takes them for a fresh cursor too, whose zeros fold to 0 (R86 e), is the
model's inference (log entry 18), and so is that the ranges of the positions and the length of the ROM register are
clauses of it (log entry 10). That a step with position 63 writes nothing, and the zeros of a fresh cursor, are the
spec's own choices (D24, D4: log entry 15), and so is the order of bits in a byte (D6). -/
def Obligations.StepKeepsTheCursorInvariant : Prop :=
  ∀ s t : State, Inv s → step s = .next t → Inv t

/-- The power-on state meets the invariant. R20 gives its clauses (d) and (e) after a successful step only; that the
invariant takes them for the power-on cursor too, whose zeros fold to 0 (R86 e), is the model's inference (log entry
18), and so is that the ranges and the length are clauses of it (log entry 10). The power-on values are those of D5
(log entry 19: the model's choice). -/
def Obligations.PowerOnMeetsTheInvariant : Prop := Inv State.reset

/-- R28: the power-on values of all eight registers, as the host reads them and as the state holds them. band1 gives
no power-on state: the values are those of D5, and R28 also allows the strict reading, which the model does not take
(log entry 19: the model's choice). The codes of mode, level and Booleans and the host's reads are the spec's own
choices (D3, D43: log entry 15); that the ROM register is read as a number is the model's choice (log entry 20). -/
def Obligations.PowerOnRegisters : Prop :=
  readHostReg State.reset .crcState = 0 ∧ readHostReg State.reset .busMode = 0 ∧ readHostReg State.reset .busLevel = 0 ∧
  readHostReg State.reset .srchAlarmOnly = 0 ∧ readHostReg State.reset .srchRom = 0 ∧
  readHostReg State.reset .srchLastDiscrepancy = 0 ∧ readHostReg State.reset .srchLastFamilyDiscrepancy = 0 ∧
  readHostReg State.reset .srchExhausted = 1 ∧
  State.reset.bus = { mode := .command, level := .normal } ∧
  State.reset.srch =
    { alarmOnly := false, rom := [0, 0, 0, 0, 0, 0, 0, 0], lastDiscrepancy := 0, lastFamilyDiscrepancy := 0,
      exhausted := true }

/-- R145, R27: what the host reads: the CRC state, the codes of mode, level and Booleans, the two positions as
numbers, and the ROM value, whose bit `i` is logical bit `i` of the 8 bytes (R40). The codes of mode, level and
Booleans are the spec's own choice (D3: log entry 15); that the ROM register is read as a number is the model's choice
(log entry 20), and so is that the positions are held as numbers (log entry 10). That the host can read every register
and the order of bits in a byte are the spec's own choices too (D43, D6: log entry 15). -/
def Obligations.HostReadsEveryRegister : Prop :=
  ∀ s : State,
    readHostReg s .crcState = s.crc.state.toNat ∧
    readHostReg s .busMode = (if s.bus.mode = .command then 0 else 1) ∧
    readHostReg s .busLevel = levelNumber s.bus.level ∧
    readHostReg s .srchAlarmOnly = (if s.srch.alarmOnly = true then 1 else 0) ∧
    readHostReg s .srchExhausted = (if s.srch.exhausted = true then 1 else 0) ∧
    readHostReg s .srchLastDiscrepancy = s.srch.lastDiscrepancy ∧
    readHostReg s .srchLastFamilyDiscrepancy = s.srch.lastFamilyDiscrepancy ∧
    (s.srch.rom.length = 8 → ∀ i, i < 64 → (readHostReg s .srchRom).testBit i = bit s.srch.rom i)

/-- R150: the codes and the `info` values of the errors, the spec's own choice (D27: log entry 15). -/
def Obligations.ErrorCodesAndInfo : Prop :=
  errorCode (.io .timeout) = 1 ∧ errorCode (.io .other) = 1 ∧ errorCode .sync = 2 ∧ (∀ r, errorCode (.data r) = 3) ∧
  errorInfo (.io .timeout) = some 1 ∧ errorInfo (.io .other) = some 2 ∧ errorInfo .sync = none ∧
  errorInfo (.data .crc) = some 1 ∧ errorInfo (.data .discrepancy) = some 2 ∧ errorInfo (.data .family) = some 3

/-! ### Step and encoding -/

/-- R36, R140: a step takes the host's oldest request; when its bytes decode to an instruction, the step is `exec` of
it in the state without that request. A single item of the block's own traffic, where one stands, is performed first,
in the same way. The list of requests and the item are the model's (log entries 4 and 6). That one step is one whole
operation is the model's reading (D29: log entry 16). -/
def Obligations.StepRunsTheDecodedInstruction : Prop :=
  (∀ (s : State) (bs : List Byte) (rest : List (List Byte)) (i : Instr), s.item = none → s.requests = bs :: rest →
    decode ⟨.hostop, bs⟩ = .ok i → step s = exec i { s with requests := rest }) ∧
  (∀ (s : State) (r : Request) (i : Instr), s.item = some r → decode r = .ok i → step s = exec i { s with item := none })

/-- R22, R140, R186, U2, U3: with no request and no item the block does nothing; what is no instruction is refused
with the decoder's reason. Issuing an operation changes neither the port nor the item; and with no item, a step that
answers a next state leaves no item and has done nothing, or has run a host operation: whatever the host issues, it
has no move that writes or reads the transport directly. The list of requests, the item and the refusals are the
model's (log entries 4, 6 and 14). That an operand out of range is refused is the spec's own choice (D30: log entry
14). -/
def Obligations.StepIdlesOrRefuses : Prop :=
  (∀ s : State, s.item = none → s.requests = [] → step s = .next s) ∧
  (∀ (s : State) (bs : List Byte) (rest : List (List Byte)) (why : Reject), s.item = none → s.requests = bs :: rest →
    decode ⟨.hostop, bs⟩ = .error why → step s = .refused (.undecodable why)) ∧
  (∀ (s : State) (r : Request) (why : Reject), s.item = some r → decode r = .error why →
    step s = .refused (.undecodable why)) ∧
  (∀ (s : State) (bs : List Byte), (s.issue bs).item = s.item ∧ (s.issue bs).port = s.port) ∧
  (∀ s t : State, s.item = none → step s = .next t →
    t.item = none ∧
      (t = s ∨ ∃ (i : Instr) (bs : List Byte) (rest : List (List Byte)),
        s.requests = bs :: rest ∧ decode ⟨.hostop, bs⟩ = .ok i ∧ isHostOp i = true ∧ exec i { s with requests := rest } = .next t))

/-- A table word placed by `withFetchWord` is run by the very next step, with no item left beside it. How a table word reaches
the block is the model's choice (log entries 6, 8 and 9). -/
def Obligations.FetchWordRunsNext : Prop :=
  ∀ (s : State) (nbits w : Nat) (i : Instr), decodeTableWord nbits w = some i →
    step (s.withFetchWord nbits w) = exec i { s with item := none }

/-- Decoding the encoding of a well-formed instruction gives it back, for every instruction and every operand. The
layout of a request in bytes is the model's (log entry 7). The codes of the operations and of the levels and some of
the bytes sent are the spec's own choices (D2, D3, D9, D11 to D14, D17: log entry 15). -/
def Obligations.DecodeOfEncode : Prop := ∀ i : Instr, i.wellFormed = true → decode (encode i) = .ok i

/-- What the decoder accepts is well formed, and an item of any format but COMM has one encoding (R69, R59). The
layout of a request in bytes is the model's (log entry 7). The codes of the operations and of the levels and some of
the bytes sent are the spec's own choices (D2, D3, D9, D11 to D14, D17: log entry 15). -/
def Obligations.DecodedInstructionsAreWellFormed : Prop :=
  ∀ (r : Request) (i : Instr), decode r = .ok i →
    i.wellFormed = true ∧ (r.format ≠ .comm → encode i = r)

/-- Words written out from R69, R51, R59 and the programs P1, P3 and P7. The layout of a request in bytes is the
model's (log entry 7). The codes of the operations and of the levels, the byte 0xED and the refusal are the spec's own
choices (D2, D3, D14: log entry 15; D30: log entry 14). -/
def Obligations.WordsOfTheSpecDecode : Prop :=
  decode ⟨.hostop, [0x01, 0x28]⟩ = .ok (.crcCalc 0x28) ∧
  decode ⟨.hostop, [0x02, 0x28, 0xFF, 0x4A, 0x1B, 0x33, 0x17, 0x04, 0x69, 0x09]⟩ =
    .ok (.encode [0x28, 0xFF, 0x4A, 0x1B, 0x33, 0x17, 0x04, 0x69] 9) ∧
  decode ⟨.hostop, [0x06, 0x02]⟩ = .ok (.busLevel .strong5) ∧
  decode ⟨.hostop, [0x06, 0x05]⟩ = .error .operandOutOfRange ∧
  decode ⟨.hostop, [0x07, 0x00]⟩ = .ok (.searchNew false) ∧
  decode ⟨.hostop, [0x0F]⟩ = .ok .reserved15 ∧
  decode ⟨.fixed, [0xE3]⟩ = .ok .cmdModeCommand ∧
  decode ⟨.comm, [0xED]⟩ = .ok .cmdChmodPulse ∧
  decode ⟨.comm, [0x95]⟩ = .error .unnamedFunction ∧
  decode ⟨.config, [0x5B]⟩ = .ok .cfgSampleOffset ∧
  decode ⟨.config, [0x71]⟩ = .ok (.configFormat .baudrate 0)
end

