-- ==== Sys2Proof/Laws/Params.lean ====
section
/-! SUPPORT. The lengths of R5 as numbers, so that no proof unfolds the record. -/

namespace Sys2Proof.Machine

@[simp] theorem params_romLength : params.romLength = 8 := rfl
@[simp] theorem params_frameLength : params.frameLength = 16 := rfl
@[simp] theorem params_responseLength : params.responseLength = 17 := rfl
@[simp] theorem params_detectLength : params.detectLength = 5 := rfl
@[simp] theorem params_crcTableSize : params.crcTableSize = 256 := rfl

end Sys2Proof.Machine
end

