-- ==== Sys2Proof/Laws/Codec.lean ====
section
/-! SUPPORT. Small lemmas of the codec: reading a bit after setting one, lengths, and the byte-pair swap. -/

namespace Sys2Proof.Machine

@[simp] theorem zeroBytes_length (n : Nat) : (zeroBytes n).length = n := by simp [zeroBytes]

@[simp] theorem bit_zeroBytes (n k : Nat) : bit (zeroBytes n) k = false := by
  unfold bit zeroBytes
  rw [List.getD_eq_getElem?_getD, List.getElem?_replicate]
  split <;> simp

@[simp] theorem setbit_length (B : List Byte) (k : Nat) (v : Bool) : (setbit B k v).length = B.length := by simp [setbit]

theorem setByteBit_getLsbD (b : Byte) (k j : Nat) (v : Bool) (hk : k < 8) :
    (setByteBit b k v).getLsbD j = if j = k then v else b.getLsbD j := by
  unfold setByteBit
  by_cases hj : j < 8
  · have h1 : (1#8 <<< k).getLsbD j = decide (j = k) := by
      rw [BitVec.getLsbD_shiftLeft, BitVec.getLsbD_one]
      by_cases e : j = k
      · subst e; simp [hj]
      · by_cases l : j < k
        · simp [l, e]
        · have : j - k ≠ 0 := by omega
          simp [this, e]
    cases v
    · simp only [Bool.false_eq_true, if_false]
      rw [BitVec.getLsbD_and, BitVec.getLsbD_not, h1]
      by_cases e : j = k <;> simp [e, hj]
    · simp only [if_true]
      rw [BitVec.getLsbD_or, h1]
      by_cases e : j = k <;> simp [e]
  · have : j ≠ k := by omega
    rw [BitVec.getLsbD_of_ge _ _ (by omega), if_neg this, BitVec.getLsbD_of_ge _ _ (by omega)]

/-- `setbit` sets the bit and leaves every other bit (R7). -/
theorem bit_setbit (B : List Byte) (k j : Nat) (v : Bool) (hk : k < 8 * B.length) :
    bit (setbit B k v) j = if j = k then v else bit B j := by
  unfold bit setbit
  by_cases e : j / 8 = k / 8
  · have hb : k / 8 < B.length := by omega
    rw [e, List.getD_eq_getElem?_getD, List.getElem?_set_self hb]
    simp only [Option.getD_some]
    rw [setByteBit_getLsbD _ _ _ _ (Nat.mod_lt _ (by omega))]
    by_cases m : j = k
    · subst m; simp
    · have : j % 8 ≠ k % 8 := by omega
      simp [m, this]
  · have : j ≠ k := fun h => e (by rw [h])
    rw [if_neg this, List.getD_eq_getElem?_getD, List.getElem?_set_ne (fun h => e h.symm), ← List.getD_eq_getElem?_getD]

@[simp] theorem encodeLoop_length (rom : List Byte) (ld n : Nat) : (encodeLoop params rom ld n).length = 16 := by
  induction n with
  | zero => simp [encodeLoop]
  | succ n ih =>
    simp only [encodeLoop, encodeBit]
    split
    · simp [ih]
    · split <;> simp [ih]

@[simp] theorem encodeFrame_length (rom : List Byte) (ld : Nat) : (encodeFrame params rom ld).length = 16 := by
  unfold encodeFrame; split <;> simp

@[simp] theorem decodeLoop_rom_length (F : List Byte) (n : Nat) : (decodeLoop params F n).rom.length = 8 := by
  induction n with
  | zero => simp [decodeLoop]
  | succ n ih => simp [decodeLoop, decodeBit, ih]

theorem swapPairs_length (l : List Byte) : (swapPairs l).length = l.length := by
  induction l using swapPairs.induct with
  | case1 a b rest ih => simp [swapPairs, ih]
  | case2 l h => rw [swapPairs]; exact h

@[simp] theorem quirk_length (R : List Byte) : (quirk R).length = R.length := by
  cases R <;> simp [quirk, swapPairs_length]

end Sys2Proof.Machine
end

