-- ==== Sys2Proof/Laws/State.lean ====
section
/-! SUPPORT. One lemma per field of State (and of Port) per update, true by rfl. -/

namespace Sys2Proof.Machine

@[simp] theorem State.setMode_crc (m : Mode) (s : State) : (s.setMode m).crc = s.crc := rfl
@[simp] theorem State.setMode_bus (m : Mode) (s : State) : (s.setMode m).bus = { s.bus with mode := m } := rfl
@[simp] theorem State.setMode_srch (m : Mode) (s : State) : (s.setMode m).srch = s.srch := rfl
@[simp] theorem State.setMode_port (m : Mode) (s : State) : (s.setMode m).port = s.port := rfl
@[simp] theorem State.setMode_requests (m : Mode) (s : State) : (s.setMode m).requests = s.requests := rfl
@[simp] theorem State.setMode_item (m : Mode) (s : State) : (s.setMode m).item = s.item := rfl
@[simp] theorem State.setMode_reply (m : Mode) (s : State) : (s.setMode m).reply = s.reply := rfl

@[simp] theorem State.setLevel_crc (l : Level) (s : State) : (s.setLevel l).crc = s.crc := rfl
@[simp] theorem State.setLevel_bus (l : Level) (s : State) : (s.setLevel l).bus = { s.bus with level := l } := rfl
@[simp] theorem State.setLevel_srch (l : Level) (s : State) : (s.setLevel l).srch = s.srch := rfl
@[simp] theorem State.setLevel_port (l : Level) (s : State) : (s.setLevel l).port = s.port := rfl
@[simp] theorem State.setLevel_requests (l : Level) (s : State) : (s.setLevel l).requests = s.requests := rfl
@[simp] theorem State.setLevel_item (l : Level) (s : State) : (s.setLevel l).item = s.item := rfl
@[simp] theorem State.setLevel_reply (l : Level) (s : State) : (s.setLevel l).reply = s.reply := rfl

@[simp] theorem State.setCrc_crc (v : Byte) (s : State) : (s.setCrc v).crc = { state := v } := rfl
@[simp] theorem State.setCrc_bus (v : Byte) (s : State) : (s.setCrc v).bus = s.bus := rfl
@[simp] theorem State.setCrc_srch (v : Byte) (s : State) : (s.setCrc v).srch = s.srch := rfl
@[simp] theorem State.setCrc_port (v : Byte) (s : State) : (s.setCrc v).port = s.port := rfl
@[simp] theorem State.setCrc_requests (v : Byte) (s : State) : (s.setCrc v).requests = s.requests := rfl
@[simp] theorem State.setCrc_item (v : Byte) (s : State) : (s.setCrc v).item = s.item := rfl
@[simp] theorem State.setCrc_reply (v : Byte) (s : State) : (s.setCrc v).reply = s.reply := rfl

@[simp] theorem State.setPort_crc (p : Port) (s : State) : (s.setPort p).crc = s.crc := rfl
@[simp] theorem State.setPort_bus (p : Port) (s : State) : (s.setPort p).bus = s.bus := rfl
@[simp] theorem State.setPort_srch (p : Port) (s : State) : (s.setPort p).srch = s.srch := rfl
@[simp] theorem State.setPort_port (p : Port) (s : State) : (s.setPort p).port = p := rfl
@[simp] theorem State.setPort_requests (p : Port) (s : State) : (s.setPort p).requests = s.requests := rfl
@[simp] theorem State.setPort_item (p : Port) (s : State) : (s.setPort p).item = s.item := rfl
@[simp] theorem State.setPort_reply (p : Port) (s : State) : (s.setPort p).reply = s.reply := rfl

@[simp] theorem State.setReply_crc (r : Option Reply) (s : State) : (s.setReply r).crc = s.crc := rfl
@[simp] theorem State.setReply_bus (r : Option Reply) (s : State) : (s.setReply r).bus = s.bus := rfl
@[simp] theorem State.setReply_srch (r : Option Reply) (s : State) : (s.setReply r).srch = s.srch := rfl
@[simp] theorem State.setReply_port (r : Option Reply) (s : State) : (s.setReply r).port = s.port := rfl
@[simp] theorem State.setReply_requests (r : Option Reply) (s : State) : (s.setReply r).requests = s.requests := rfl
@[simp] theorem State.setReply_item (r : Option Reply) (s : State) : (s.setReply r).item = s.item := rfl
@[simp] theorem State.setReply_reply (r : Option Reply) (s : State) : (s.setReply r).reply = r := rfl

@[simp] theorem State.setCursor_crc (k : Srch) (s : State) : (s.setCursor k).crc = s.crc := rfl
@[simp] theorem State.setCursor_bus (k : Srch) (s : State) : (s.setCursor k).bus = s.bus := rfl
@[simp] theorem State.setCursor_srch (k : Srch) (s : State) : (s.setCursor k).srch = k := rfl
@[simp] theorem State.setCursor_port (k : Srch) (s : State) : (s.setCursor k).port = s.port := rfl
@[simp] theorem State.setCursor_requests (k : Srch) (s : State) : (s.setCursor k).requests = s.requests := rfl
@[simp] theorem State.setCursor_item (k : Srch) (s : State) : (s.setCursor k).item = s.item := rfl
@[simp] theorem State.setCursor_reply (k : Srch) (s : State) : (s.setCursor k).reply = s.reply := rfl

/-- A table word changes only the host side. -/
theorem State.withFetchWord_cases (s : State) (n w : Nat) :
    (∃ bs, tableRequest n w = ⟨.hostop, bs⟩ ∧
      s.withFetchWord n w = { s with requests := bs :: s.requests, item := none }) ∨
    ((tableRequest n w).format ≠ .hostop ∧ s.withFetchWord n w = { s with item := some (tableRequest n w) }) := by
  unfold State.withFetchWord
  by_cases h : (tableRequest n w).format = .hostop
  · refine .inl ⟨(tableRequest n w).bytes, ?_, by simp [h]⟩
    rw [← h]
  · exact .inr ⟨h, by simp [h]⟩

@[simp] theorem Port.record_script (p : Port) (e : Event) : (p.record e).script = p.script.drop 1 := rfl
@[simp] theorem Port.record_rx (p : Port) (e : Event) : (p.record e).rx = p.rx := rfl
@[simp] theorem Port.record_calls (p : Port) (e : Event) : (p.record e).calls = p.calls + 1 := rfl
@[simp] theorem Port.record_taken (p : Port) (e : Event) : (p.record e).taken = p.taken := rfl
@[simp] theorem Port.record_baud (p : Port) (e : Event) : (p.record e).baud = p.baud := rfl
@[simp] theorem Port.record_history (p : Port) (e : Event) : (p.record e).history = p.history ++ [e] := rfl
@[simp] theorem Port.dropRx_script (p : Port) (n : Nat) : (p.dropRx n).script = p.script := rfl
@[simp] theorem Port.dropRx_rx (p : Port) (n : Nat) : (p.dropRx n).rx = p.rx.drop n := rfl
@[simp] theorem Port.dropRx_calls (p : Port) (n : Nat) : (p.dropRx n).calls = p.calls := rfl
@[simp] theorem Port.dropRx_taken (p : Port) (n : Nat) : (p.dropRx n).taken = p.taken + n := rfl
@[simp] theorem Port.dropRx_baud (p : Port) (n : Nat) : (p.dropRx n).baud = p.baud := rfl
@[simp] theorem Port.dropRx_history (p : Port) (n : Nat) : (p.dropRx n).history = p.history := rfl

@[simp] theorem takeStop_eq (e : Stop) (s : State) : takeStop e s = s.setReply e.reply := rfl

@[simp] theorem Res.bind_ok {α β : Type} (a : α) (s : State) (f : α → State → Res β) : (Res.ok a s).bind f = f a s := rfl

@[simp] theorem Res.bind_stop {α β : Type} (e : Stop) (s : State) (f : α → State → Res β) :
    (Res.stop e s).bind f = .stop e s := rfl

@[simp] theorem Res.map_ok {α β : Type} (a : α) (s : State) (f : α → β) : (Res.ok a s).map f = .ok (f a) s := rfl

@[simp] theorem Res.map_stop {α β : Type} (e : Stop) (s : State) (f : α → β) :
    (Res.stop e s : Res α).map f = .stop e s := rfl

theorem Res.bind_assoc {α β γ : Type} (r : Res α) (f : α → State → Res β) (g : β → State → Res γ) :
    (r.bind f).bind g = r.bind fun a s => (f a s).bind g := by cases r <;> rfl

end Sys2Proof.Machine
end

