-- ==== Sys2Proof/Laws/Transport.lean ====
section
/-! SUPPORT. What the transport primitives do: the lemma of one successful call, the stream facts of the port, and the
one lemma that says everything a call can do. -/

namespace Sys2Proof.Machine

/-! ### The two streams of the port -/

theorem Port.verdictAt_record (p : Port) (e : Event) (j : Nat) : (p.record e).verdictAt j = p.verdictAt (j + 1) := by
  simp [Port.verdictAt, Port.record, Nat.add_comm, Nat.add_left_comm]

@[simp] theorem Port.byteAt_record (p : Port) (e : Event) (j : Nat) : (p.record e).byteAt j = p.byteAt j := rfl

@[simp] theorem Port.verdictAt_dropRx (p : Port) (n j : Nat) : (p.dropRx n).verdictAt j = p.verdictAt j := rfl

theorem Port.byteAt_dropRx (p : Port) (n j : Nat) : (p.dropRx n).byteAt j = p.byteAt (n + j) := by
  simp [Port.byteAt, Port.dropRx, List.getElem?_drop, Nat.add_assoc]

@[simp] theorem Port.incoming_record (p : Port) (e : Event) (n : Nat) : (p.record e).incoming n = p.incoming n := rfl

@[simp] theorem Port.incoming_length (p : Port) (n : Nat) : (p.incoming n).length = n := by simp [Port.incoming]

theorem Port.incoming_one (p : Port) : p.incoming 1 = [p.byteAt 0] := rfl

/-- A byte of a read is the byte of the stream at that place. -/
theorem Port.incoming_getD (p : Port) (n j : Nat) (h : j < n) : (p.incoming n).getD j 0 = p.byteAt j := by
  simp [Port.incoming, List.getD, h]

/-- Where the state fixes enough bytes, a read delivers the oldest of them. -/
theorem Port.incoming_eq_take (p : Port) (n : Nat) (h : n ≤ p.rx.length) : p.incoming n = p.rx.take n := by
  apply List.ext_getElem
  · simp [h]
  · intro i h1 h2
    have hi : i < p.rx.length := by simp at h1; omega
    simp [Port.incoming, Port.byteAt, hi]

theorem Port.verdictAt_complete (p : Port) (c : Call) (j : Nat) : (p.complete c).verdictAt j = p.verdictAt (j + 1) := by
  cases c with
  | write B => exact p.verdictAt_record (.write B) j
  | read n => exact (p.dropRx n).verdictAt_record (.read (p.incoming n)) j
  | setBaud r => exact p.verdictAt_record (.setBaud r) j
  | delay ms => exact p.verdictAt_record (.delay ms) j

theorem Port.grants_complete (p : Port) (c : Call) (k : Nat) (h : p.grants (k + 1)) : (p.complete c).grants k := by
  intro j hj
  rw [p.verdictAt_complete]
  exact h _ (by omega)

theorem Port.grants_mono {p : Port} {k m : Nat} (h : p.grants k) (hm : m ≤ k) : p.grants m := fun j hj => h j (by omega)

theorem Port.grants_perform (p : Port) (cs : List Call) (k : Nat) (h : p.grants (cs.length + k)) : (p.perform cs).grants k := by
  induction cs generalizing p with
  | nil => simpa [Port.perform] using h
  | cons c cs ih =>
    exact ih (p.complete c) (p.grants_complete c _ (by simpa [Nat.add_right_comm] using h))

@[simp] theorem Port.complete_calls (p : Port) (c : Call) : (p.complete c).calls = p.calls + 1 := by cases c <;> rfl

theorem Port.perform_append (p : Port) (as bs : List Call) : p.perform (as ++ bs) = (p.perform as).perform bs := by
  simp [Port.perform]

@[simp] theorem Port.perform_nil (p : Port) : p.perform [] = p := rfl

@[simp] theorem Port.perform_cons (p : Port) (c : Call) (cs : List Call) : p.perform (c :: cs) = (p.complete c).perform cs := rfl

/-! ### One call -/

theorem transport_of_grants (c : Call) (s : State) (h : s.port.verdictAt 0 = .ok) :
    transport c s = .ok (s.port.answer c) (s.setPort (s.port.complete c)) := by
  simp [transport, Port.verdictFor, h]

theorem emit_of_grants (c : Call) (s : State) (h : s.port.verdictAt 0 = .ok) :
    emit c s = .ok () (s.setPort (s.port.complete c)) := by
  simp [emit, transport_of_grants c s h]

/-- Everything a transport call can do: it succeeds, or it raises `E_IO`, or the host drops the operation there; only the
port changes. -/
theorem transport_cases (c : Call) (s : State) :
    transport c s = .ok (s.port.answer c) (s.setPort (s.port.complete c)) ∨
    (∃ k d, c.canFail = true ∧
      transport c s = .stop (.raised (.io k)) (s.setPort (s.port.cut c d (.raised (.io k))))) ∨
    (∃ d, transport c s = .stop .abandoned (s.setPort (s.port.cut c d .abandoned))) := by
  unfold transport
  cases hv : s.port.verdictFor c with
  | ok => exact .inl rfl
  | fail k d =>
    refine .inr (.inl ⟨k, d, ?_, rfl⟩)
    unfold Port.verdictFor at hv
    split at hv
    · cases hv
    · split at hv
      · assumption
      · cases hv
    · cases hv
  | abandon d => exact .inr (.inr ⟨d, rfl⟩)

theorem Port.complete_history (p : Port) (c : Call) :
    ∃ e, (p.complete c).history = p.history ++ [e] ∧ e.isCut = false := by
  cases c <;> exact ⟨_, rfl, rfl⟩

theorem Port.cut_history (p : Port) (c : Call) (d : Nat) (why : Stop) :
    (p.cut c d why).history = p.history ++ [.cut c (min d (cutLimit c why)) why] ∧ (p.cut c d why).calls = p.calls + 1 := by
  cases c with
  | write B => exact ⟨rfl, rfl⟩
  | read n => exact ⟨rfl, rfl⟩
  | setBaud r => by_cases h : min d (cutLimit (.setBaud r) why) = 0 <;> simp [Port.cut, h]
  | delay ms => exact ⟨rfl, rfl⟩

end Sys2Proof.Machine
end

