-- ==== Sys2Proof/Laws/Controller.lean ====
section
/-! SUPPORT. What each procedure of the Bus Controller and the Search Engine returns when the transport serves its calls. Every
lemma starts from a state in which some calls have been served already (`State.afterCalls`), so that they chain. -/

namespace Sys2Proof.Machine

/-! ### States after served calls -/

/-- How many bytes a run of calls takes from the receive direction. -/
def readCount : List Call → Nat
  | [] => 0
  | .read n :: cs => n + readCount cs
  | .write _ :: cs => readCount cs
  | .setBaud _ :: cs => readCount cs
  | .delay _ :: cs => readCount cs

theorem readCount_append (as bs : List Call) : readCount (as ++ bs) = readCount as + readCount bs := by
  induction as with
  | nil => simp [readCount]
  | cons a as ih => cases a <;> simp [readCount, ih, Nat.add_assoc]

@[simp] theorem readCount_modeSwitch (m0 m : Mode) : readCount (modeSwitchCalls m0 m) = 0 := by cases m0 <;> cases m <;> rfl

theorem Port.byteAt_perform (p : Port) (cs : List Call) (j : Nat) : (p.perform cs).byteAt j = p.byteAt (readCount cs + j) := by
  induction cs generalizing p with
  | nil => simp [readCount]
  | cons c cs ih =>
    rw [Port.perform_cons, ih]
    cases c with
    | read n =>
      show (p.dropRx n).byteAt (readCount cs + j) = _
      rw [p.byteAt_dropRx, readCount, Nat.add_assoc]
    | write B => rfl
    | setBaud r => rfl
    | delay ms => rfl

theorem Port.incoming_perform (p : Port) (cs : List Call) (n : Nat) :
    (p.perform cs).incoming n = p.bytesFrom (readCount cs) n := by
  simp [Port.incoming, Port.bytesFrom, Port.byteAt_perform]

theorem Port.bytesFrom_zero (p : Port) (n : Nat) : p.bytesFrom 0 n = p.incoming n := by simp [Port.bytesFrom, Port.incoming]

@[simp] theorem Port.bytesFrom_length (p : Port) (off n : Nat) : (p.bytesFrom off n).length = n := by simp [Port.bytesFrom]

theorem Port.bytesFrom_getD (p : Port) (off n j : Nat) (h : j < n) : (p.bytesFrom off n).getD j 0 = p.byteAt (off + j) := by
  simp [Port.bytesFrom, List.getD, h]

section afterCalls
variable (s : State) (cs : List Call) (b : Bus)

@[simp] theorem State.afterCalls_crc : (s.afterCalls cs b).crc = s.crc := rfl
@[simp] theorem State.afterCalls_bus : (s.afterCalls cs b).bus = b := rfl
@[simp] theorem State.afterCalls_srch : (s.afterCalls cs b).srch = s.srch := rfl
@[simp] theorem State.afterCalls_port : (s.afterCalls cs b).port = s.port.perform cs := rfl
@[simp] theorem State.afterCalls_requests : (s.afterCalls cs b).requests = s.requests := rfl
@[simp] theorem State.afterCalls_item : (s.afterCalls cs b).item = s.item := rfl
@[simp] theorem State.afterCalls_reply : (s.afterCalls cs b).reply = s.reply := rfl
theorem State.afterCalls_nil : s.afterCalls [] s.bus = s := rfl

@[simp] theorem State.afterCalls_setMode (m : Mode) :
    (s.afterCalls cs b).setMode m = s.afterCalls cs { b with mode := m } := rfl

@[simp] theorem State.afterCalls_setLevel (l : Level) :
    (s.afterCalls cs b).setLevel l = s.afterCalls cs { b with level := l } := rfl

end afterCalls

/-! ### One call, in the chained form -/

theorem transport_served (s : State) (cs : List Call) (b : Bus) (c : Call) (h : s.port.grants (cs.length + 1)) :
    transport c (s.afterCalls cs b) = .ok ((s.port.perform cs).answer c) (s.afterCalls (cs ++ [c]) b) := by
  rw [transport_of_grants c _ (s.port.grants_perform cs 1 h 0 (by omega))]
  simp [State.afterCalls, State.setPort, Port.perform_append]

theorem emit_served (s : State) (cs : List Call) (b : Bus) (c : Call) (h : s.port.grants (cs.length + 1)) :
    emit c (s.afterCalls cs b) = .ok () (s.afterCalls (cs ++ [c]) b) := by
  simp [emit, transport_served s cs b c h]

theorem read_served (s : State) (cs : List Call) (b : Bus) (n : Nat) (h : s.port.grants (cs.length + 1)) :
    transport (.read n) (s.afterCalls cs b) =
      .ok (s.port.bytesFrom (readCount cs) n) (s.afterCalls (cs ++ [.read n]) b) := by
  rw [transport_served s cs b _ h]
  simp [Port.answer, Port.incoming_perform]

/-! ### The Bus Controller -/

/-- The default predicate is false for every byte (C1). -/
theorem params_notify (b : Byte) : params.notify b = false := by revert b; decide

theorem filterLoop_quiet (n i : Nat) (buf : List Byte) (s : State) : filterLoop params n i buf s = .ok buf s := by
  induction n generalizing i with
  | zero => rfl
  | succ n ih => simp [filterLoop, params_notify, ih]

theorem filterResponse_quiet (buf : List Byte) (s : State) : filterResponse params buf s = .ok buf s := by
  simp [filterResponse, filterLoop_quiet]

theorem readFiltered_served (s : State) (cs : List Call) (b : Bus) (n : Nat) (h : s.port.grants (cs.length + 1)) :
    readFiltered params n (s.afterCalls cs b) =
      .ok (s.port.bytesFrom (readCount cs) n) (s.afterCalls (cs ++ [.read n]) b) := by
  simp [readFiltered, read_served s cs b n h, filterResponse_quiet]

theorem ensureMode_served (s : State) (cs : List Call) (b : Bus) (m : Mode)
    (h : s.port.grants (cs.length + (modeSwitchCalls b.mode m).length)) :
    ensureMode params m (s.afterCalls cs b) =
      .ok () (s.afterCalls (cs ++ modeSwitchCalls b.mode m) { b with mode := m }) := by
  obtain ⟨mode, level⟩ := b
  cases m <;> cases mode
  case command.command => simp [ensureMode, modeSwitchCalls]
  case data.data => simp [ensureMode, modeSwitchCalls]
  case command.data =>
    have e := emit_served s cs ⟨.data, level⟩ (.write [0xE3#8]) h
    simp [ensureMode, modeSwitchCalls, modeByte, params, e]
  case data.command =>
    have e := emit_served s cs ⟨.command, level⟩ (.write [0xE1#8]) h
    simp [ensureMode, modeSwitchCalls, modeByte, params, e]

theorem sendIn_served (s : State) (cs : List Call) (b : Bus) (m : Mode) (B : List Byte)
    (h : s.port.grants (cs.length + (modeSwitchCalls b.mode m).length + 1)) :
    sendIn params m B (s.afterCalls cs b) =
      .ok () (s.afterCalls (cs ++ modeSwitchCalls b.mode m ++ [.write B]) { b with mode := m }) := by
  rw [sendIn, ensureMode_served s cs b m (Port.grants_mono h (by omega)), Res.bind_ok, emit_served]
  simpa [Nat.add_assoc] using h

theorem detect_served (s : State) (cs : List Call) (b : Bus) (h : s.port.grants (cs.length + 8)) :
    detect params (s.afterCalls cs b) =
      .ok (accept params (s.port.bytesFrom (readCount cs) 5))
        (s.afterCalls (cs ++ detectCalls) { b with mode := .command }) := by
  have e : ∀ (ds : List Call) (c : Call), ds.length < 8 →
      emit c (s.afterCalls (cs ++ ds) { b with mode := .command }) =
        .ok () (s.afterCalls (cs ++ (ds ++ [c])) { b with mode := .command }) := by
    intro ds c hd
    rw [emit_served _ _ _ _ (Port.grants_mono h (by simp; omega)), List.append_assoc]
  have f : forceCommand params (s.afterCalls cs b) = s.afterCalls (cs ++ []) { b with mode := .command } := by
    rw [List.append_nil]; rfl
  simp only [detect, emulateBreak, f, Res.bind_assoc]
  rw [e [] _ (by decide), Res.bind_ok, List.nil_append, e [_] _ (by decide), Res.bind_ok, e _ _ (by decide), Res.bind_ok,
    e _ _ (by decide), Res.bind_ok, e _ _ (by decide), Res.bind_ok, e _ _ (by decide), Res.bind_ok, e _ _ (by decide),
    Res.bind_ok, readFiltered_served _ _ _ _ (Port.grants_mono h (by simp)), Res.bind_ok]
  simp [readCount_append, readCount, detectCalls, params, probeBytes, cfgSlew, cfgWrite1Low, cfgSampleOffset]

theorem resync_served (s : State) (cs : List Call) (b : Bus) (h : s.port.grants (cs.length + 8)) :
    resync params (s.afterCalls cs b) =
      if accept params (s.port.bytesFrom (readCount cs) 5) then
        .ok () (s.afterCalls (cs ++ detectCalls) { b with mode := .command })
      else .stop (.raised .sync) (s.afterCalls (cs ++ detectCalls) { b with mode := .command }) := by
  simp [resync, detect_served s cs b h, raise]

theorem changeLevel_same (s : State) (target : Level) (h : target = s.bus.level) :
    changeLevel params target s = .ok target s := by
  simp [changeLevel, h]

/-- The calls of `BUS_LEVEL` up to the confirmation (R110, R111). -/
def levelCalls (m0 : Mode) (target : Level) : List Call :=
  modeSwitchCalls m0 .command ++
    if target = .normal then [.write [0xF1, 0xED, 0xF1], .read 2] else [.write [0x3F, 0xED], .read 1]

/-- The acceptance test of `BUS_LEVEL` (R110, R111). -/
def levelAccept (target : Level) (r : List Byte) : Bool :=
  if target = .normal then acceptNormal params r else acceptPulse params r

@[simp] theorem levelCalls_length (m0 : Mode) (t : Level) :
    (levelCalls m0 t).length = (modeSwitchCalls m0 .command).length + 2 := by
  by_cases h : t = .normal <;> simp [levelCalls, h]

theorem toLevel_served (s : State) (cs : List Call) (b : Bus) (target : Level) (h : s.port.grants (cs.length + 2)) :
    toLevel params target (s.afterCalls cs b) =
      .ok (levelAccept target (s.port.bytesFrom (readCount cs) (if target = .normal then 2 else 1)))
        (s.afterCalls
          (cs ++ if target = .normal then [.write [0xF1, 0xED, 0xF1], .read 2] else [.write [0x3F, 0xED], .read 1]) b) := by
  by_cases ht : target = .normal
  · rw [toLevel, if_pos ht, toNormal, emit_served _ _ _ _ (Port.grants_mono h (by omega)), Res.bind_ok,
      readFiltered_served _ _ _ _ (by simpa using h)]
    simp [ht, levelAccept, readCount_append, readCount, params]
  · rw [toLevel, if_neg ht, toPulse, emit_served _ _ _ _ (Port.grants_mono h (by omega)), Res.bind_ok,
      readFiltered_served _ _ _ _ (by simpa using h)]
    simp [ht, levelAccept, readCount_append, readCount, params, cfgPulse5VInfinite]

/-- `BUS_LEVEL` to another level, accepted. -/
theorem changeLevel_accepted (s : State) (cs : List Call) (b : Bus) (target : Level) (ht : target ≠ b.level)
    (h : s.port.grants (cs.length + (levelCalls b.mode target).length))
    (ha : levelAccept target (s.port.bytesFrom (readCount cs) (if target = .normal then 2 else 1)) = true) :
    changeLevel params target (s.afterCalls cs b) =
      .ok target (s.afterCalls (cs ++ levelCalls b.mode target) { mode := .command, level := target }) := by
  rw [levelCalls_length] at h
  rw [changeLevel, State.afterCalls_bus, if_neg ht, ensureMode_served _ _ _ _ (Port.grants_mono h (by omega)), Res.bind_ok,
    toLevel_served _ _ _ _ (Port.grants_mono h (by simp; omega)), Res.bind_ok]
  simp [readCount_append, ha, levelCalls]

/-- `BUS_LEVEL` to another level, rejected: the level stays and the fallback decides (R106, R112). -/
theorem changeLevel_rejected (s : State) (cs : List Call) (b : Bus) (target : Level) (ht : target ≠ b.level)
    (h : s.port.grants (cs.length + (levelCalls b.mode target).length + 8))
    (ha : levelAccept target (s.port.bytesFrom (readCount cs) (if target = .normal then 2 else 1)) = false) :
    changeLevel params target (s.afterCalls cs b) =
      (resync params (s.afterCalls (cs ++ levelCalls b.mode target) { b with mode := .command })).bind
        fun _ s => .ok s.bus.level s := by
  rw [levelCalls_length] at h
  rw [changeLevel, State.afterCalls_bus, if_neg ht, ensureMode_served _ _ _ _ (Port.grants_mono h (by omega)), Res.bind_ok,
    toLevel_served _ _ _ _ (Port.grants_mono h (by simp; omega)), Res.bind_ok]
  simp [readCount_append, ha, levelCalls]

theorem statusOutcome_inSync (b : Byte) (s : State) (h : inSync params b = true) :
    statusOutcome params b s = .ok (presenceOf params b) s := by
  simp [statusOutcome, h]

/-- The calls of `BUS_RESET` at level Normal (R103). -/
def resetCalls (m0 : Mode) : List Call := modeSwitchCalls m0 .command ++ [.write [0xC1], .read 1]

@[simp] theorem resetCalls_length (m0 : Mode) : (resetCalls m0).length = (modeSwitchCalls m0 .command).length + 2 := by
  simp [resetCalls]

@[simp] theorem readCount_resetCalls (m0 : Mode) : readCount (resetCalls m0) = 1 := by
  simp [resetCalls, readCount_append, readCount]

/-- `BUS_RESET` once the level is Normal or its cascade is over: what is left is the reset command and the status byte. -/
theorem resetTail_served (s : State) (cs : List Call) (b : Bus)
    (h : s.port.grants (cs.length + (resetCalls b.mode).length)) :
    ((sendIn params .command [cmdBusReset params] (s.afterCalls cs b)).bind fun _ s =>
      (transport (.read 1) s).bind fun r s => statusOutcome params (r.getD 0 0) s) =
      statusOutcome params (s.port.byteAt (readCount cs))
        (s.afterCalls (cs ++ resetCalls b.mode) { b with mode := .command }) := by
  rw [resetCalls_length] at h
  rw [sendIn_served _ _ _ _ _ (Port.grants_mono h (by omega)), Res.bind_ok,
    read_served _ _ _ _ (by simpa [Nat.add_assoc] using h), Res.bind_ok, Port.bytesFrom_getD _ _ _ _ (by omega)]
  simp [readCount_append, readCount, resetCalls, cmdBusReset, params]

theorem resetBus_normal (s : State) (cs : List Call) (b : Bus) (hl : b.level = .normal)
    (h : s.port.grants (cs.length + (resetCalls b.mode).length)) :
    resetBus params (s.afterCalls cs b) =
      statusOutcome params (s.port.byteAt (readCount cs))
        (s.afterCalls (cs ++ resetCalls b.mode) { b with mode := .command }) := by
  rw [resetBus, changeLevel_same _ _ (by simp [hl]), Res.bind_ok, resetTail_served _ _ _ h]

/-! ### The search exchange -/

/-- The calls of steps 3 to 5 of `SEARCH_NEXT` from Command mode, without the trailing reset (R132). -/
def exchangeCalls (k : Srch) : List Call :=
  [.write [0xE1], .write [if k.alarmOnly then 0xEC else 0xF0], .write [0xE3], .write [0xB1],
    .write [0xE1], .write (encodeFrame params k.rom k.lastDiscrepancy), .read 17, .write [0xE3], .write [0xA1]]

theorem selectSearch_served (s : State) (cs : List Call) (b : Bus) (hm : b.mode = .command)
    (h : s.port.grants (cs.length + 4)) :
    selectSearch params (s.afterCalls cs b) =
      .ok () (s.afterCalls (cs ++ [.write [0xE1], .write [if s.srch.alarmOnly then 0xEC else 0xF0], .write [0xE3], .write [0xB1]])
        b) := by
  obtain ⟨mode, level⟩ := b
  obtain rfl : mode = .command := hm
  rw [selectSearch, sendIn_served _ _ _ _ _ (Port.grants_mono h (by simp [modeSwitchCalls])), Res.bind_ok,
    sendIn_served _ _ _ _ _ (Port.grants_mono h (by simp [modeSwitchCalls]))]
  cases ha : s.srch.alarmOnly <;> simp [modeSwitchCalls, searchCommand, params, ha]

theorem sendFrame_served (s : State) (cs : List Call) (b : Bus) (hm : b.mode = .command)
    (h : s.port.grants (cs.length + 2)) :
    sendFrame params (s.afterCalls cs b) =
      .ok () (s.afterCalls (cs ++ [.write [0xE1], .write (encodeFrame params s.srch.rom s.srch.lastDiscrepancy)])
        { b with mode := .data }) := by
  obtain ⟨mode, level⟩ := b
  obtain rfl : mode = .command := hm
  rw [sendFrame, sendIn_served _ _ _ _ _ (Port.grants_mono h (by simp [modeSwitchCalls]))]
  simp [modeSwitchCalls]

theorem readSearchResponse_served (s : State) (cs : List Call) (b : Bus) (hm : b.mode = .data) (hl : b.level = .normal)
    (h : s.port.grants (cs.length + 5)) (hs : inSync params (s.port.byteAt (readCount cs + 17)) = true) :
    readSearchResponse params (s.afterCalls cs b) =
      .ok (decodeResponse params (s.port.bytesFrom (readCount cs) 17))
        (s.afterCalls (cs ++ [.read 17, .write [0xE3], .write [0xA1], .write [0xC1], .read 1])
          { b with mode := .command }) := by
  obtain ⟨mode, level⟩ := b
  obtain rfl : mode = .data := hm
  obtain rfl : level = .normal := hl
  rw [readSearchResponse, readFiltered_served _ _ _ _ (Port.grants_mono h (by omega)), Res.bind_ok,
    sendIn_served _ _ _ _ _ (Port.grants_mono h (by simp [modeSwitchCalls])), Res.bind_ok,
    resetBus_normal _ _ _ rfl (Port.grants_mono h (by simp [modeSwitchCalls])),
    statusOutcome_inSync _ _ (by simpa [readCount_append, readCount] using hs)]
  simp [modeSwitchCalls, resetCalls, params]

theorem searchExchange_served (s : State) (cs : List Call) (b : Bus) (hm : b.mode = .command) (hl : b.level = .normal)
    (h : s.port.grants (cs.length + 11)) (hs : inSync params (s.port.byteAt (readCount cs + 17)) = true) :
    searchExchange params (s.afterCalls cs b) =
      acceptRom params (decodeResponse params (s.port.bytesFrom (readCount cs) 17))
        (s.afterCalls (cs ++ exchangeCalls s.srch ++ [.write [0xC1], .read 1]) b) := by
  obtain ⟨mode, level⟩ := b
  obtain rfl : mode = .command := hm
  obtain rfl : level = .normal := hl
  rw [searchExchange, selectSearch_served _ _ _ rfl (Port.grants_mono h (by omega)), Res.bind_ok,
    sendFrame_served _ _ _ rfl (Port.grants_mono h (by simp)), Res.bind_ok,
    readSearchResponse_served _ _ _ rfl rfl (Port.grants_mono h (by simp)) (by simpa [readCount_append, readCount] using hs)]
  simp [readCount_append, readCount, exchangeCalls]

end Sys2Proof.Machine
end

