-- ==== Sys2Proof/Laws/Crc.lean ====
section
/-! SUPPORT. Small lemmas of the CRC unit: the fold over a list, one byte at a time. -/

namespace Sys2Proof.Machine

/-- An 8-bit index is always inside the table (R82). -/
theorem crcTable_params (i : Byte) : crcTable params i = crcShifts params 8 i := if_pos i.isLt

@[simp] theorem crcFold_nil (c : Config) : crcFold c [] = 0 := rfl

theorem crcFold_append (c : Config) (A B : List Byte) : crcFold c (A ++ B) = B.foldl (crcNext c) (crcFold c A) := by
  simp [crcFold, List.foldl_append]

/-- The fold of one more byte is the unit's own step (R82, R85). -/
theorem crcFold_snoc (c : Config) (A : List Byte) (b : Byte) : crcFold c (A ++ [b]) = crcNext c (crcFold c A) b := by
  rw [crcFold_append]; rfl

end Sys2Proof.Machine
end

