-- ==== Sys2Proof/Laws/PerInstr.lean ====
section
/-! SUPPORT. Per-instruction laws about the syntax and its encoding. -/

namespace Sys2Proof.Laws.EncodedLength

/-- How many bytes the item of an instruction has (R50, R69, R62, R63, R65, R66, R61). -/
def itemLength : Instr → Nat
  | .crcCalc _ => 2
  | .encode _ _ => 10
  | .decode _ => 18
  | .busLevel _ => 2
  | .searchNew _ => 2
  | .resp5 _ => 5
  | .confirmNormal _ _ => 2
  | .resp17 _ => 17
  | .romCode _ => 8
  | _ => 1

/-- A well-formed instruction is encoded in exactly the bytes of its item. -/
def Statement (i : Instr) : Prop := i.wellFormed = true → (Sys2Proof.encode i).bytes.length = itemLength i

theorem crcNew : Statement (.crcNew) := fun _ => rfl

theorem crcCalc (byte : Byte) : Statement (.crcCalc byte) := fun _ => rfl

theorem encode (priorRom : List Byte) (lastDiscrepancy : Nat) : Statement (.encode priorRom lastDiscrepancy) := by
  intro h
  simp only [Instr.wellFormed, Bool.and_eq_true, beq_iff_eq] at h
  simp [Sys2Proof.encode, itemLength, h]

theorem decode (resp17 : List Byte) : Statement (.decode resp17) := by
  intro h
  simp only [Instr.wellFormed, beq_iff_eq] at h
  simp [Sys2Proof.encode, itemLength, h]

theorem busReset : Statement (.busReset) := fun _ => rfl

theorem busDetect : Statement (.busDetect) := fun _ => rfl

theorem busLevel (target : Level) : Statement (.busLevel target) := fun _ => rfl

theorem searchNew (alarmOnly : Bool) : Statement (.searchNew alarmOnly) := fun _ => rfl

theorem searchNext : Statement (.searchNext) := fun _ => rfl

theorem reserved9 : Statement (.reserved9) := fun _ => rfl

theorem reserved10 : Statement (.reserved10) := fun _ => rfl

theorem reserved11 : Statement (.reserved11) := fun _ => rfl

theorem reserved12 : Statement (.reserved12) := fun _ => rfl

theorem reserved13 : Statement (.reserved13) := fun _ => rfl

theorem reserved14 : Statement (.reserved14) := fun _ => rfl

theorem reserved15 : Statement (.reserved15) := fun _ => rfl

theorem cmdModeData : Statement (.cmdModeData) := fun _ => rfl

theorem cmdModeCommand : Statement (.cmdModeCommand) := fun _ => rfl

theorem cmdBusReset : Statement (.cmdBusReset) := fun _ => rfl

theorem cmdReset : Statement (.cmdReset) := fun _ => rfl

theorem cfgSlew : Statement (.cfgSlew) := fun _ => rfl

theorem cfgWrite1Low : Statement (.cfgWrite1Low) := fun _ => rfl

theorem cfgSampleOffset : Statement (.cfgSampleOffset) := fun _ => rfl

theorem probeBaudRead : Statement (.probeBaudRead) := fun _ => rfl

theorem probeBitTest : Statement (.probeBitTest) := fun _ => rfl

theorem cmdPulseTerminate : Statement (.cmdPulseTerminate) := fun _ => rfl

theorem cmdChmodPulse : Statement (.cmdChmodPulse) := fun _ => rfl

theorem cfgPulse5VInfinite : Statement (.cfgPulse5VInfinite) := fun _ => rfl

theorem cmdSearchRom : Statement (.cmdSearchRom) := fun _ => rfl

theorem cmdSearchAlarm : Statement (.cmdSearchAlarm) := fun _ => rfl

theorem cmdSearchAccelOn : Statement (.cmdSearchAccelOn) := fun _ => rfl

theorem cmdSearchAccelOff : Statement (.cmdSearchAccelOff) := fun _ => rfl

theorem breakFiller : Statement (.breakFiller) := fun _ => rfl

theorem frameByte (b : Byte) : Statement (.frameByte b) := fun _ => rfl

theorem commFormat (function : FunctionSelect) (speed : SpeedSelect) : Statement (.commFormat function speed) := fun _ => rfl

theorem configFormat (parameter : ParameterSelect) (valueCode : BitVec 3) : Statement (.configFormat parameter valueCode) := fun _ => rfl

theorem status (s : Byte) : Statement (.status s) := fun _ => rfl

theorem resp5 (r : List Byte) : Statement (.resp5 r) := by
  intro h
  simp only [Instr.wellFormed, beq_iff_eq] at h
  simp [Sys2Proof.encode, itemLength, h]

theorem confirmNormal (c0 c1 : Byte) : Statement (.confirmNormal c0 c1) := fun _ => rfl

theorem confirmPulse (c0 : Byte) : Statement (.confirmPulse c0) := fun _ => rfl

theorem resp17 (r : List Byte) : Statement (.resp17 r) := by
  intro h
  simp only [Instr.wellFormed, beq_iff_eq] at h
  simp [Sys2Proof.encode, itemLength, h]

theorem notification (b : Byte) : Statement (.notification b) := fun _ => rfl

theorem romCode (rom : List Byte) : Statement (.romCode rom) := by
  intro h
  simp only [Instr.wellFormed, beq_iff_eq] at h
  simp [Sys2Proof.encode, itemLength, h]

end Sys2Proof.Laws.EncodedLength
end

