-- ==== Sys2Proof/Laws/Runs.lean ====
section
/-! SUPPORT. Everything a procedure of the Bus Controller or the search exchange can do (`Runs`), whatever the transport
answers: which registers it leaves, what it adds to the history, which bytes it sends, how `BUS.mode` follows those
bytes, and how it ends. One lemma per procedure; the claims about the whole machine follow from them. -/

namespace Sys2Proof.Machine

/-- No call among the events was cut short. -/
def noCuts (es : List Event) : Prop := ∀ e ∈ es, e.isCut = false

/-- From `s` to `t` the events `es` were added; the CRC register, the cursor and the host side are unchanged, and
`BUS.level` is unchanged or `l`. -/
structure Trace (l : Level) (s t : State) (es : List Event) : Prop where
  crc : t.crc = s.crc
  srch : t.srch = s.srch
  requests : t.requests = s.requests
  item : t.item = s.item
  reply : t.reply = s.reply
  level : t.bus.level = s.bus.level ∨ t.bus.level = l
  history : t.port.history = s.port.history ++ es
  calls : t.port.calls = s.port.calls + es.length
  listed : ∀ e ∈ es, ∀ b ∈ e.sent, isListedByte b = true

/-- The events of a procedure that stops: the call that failed, or at which the host dropped the operation, is the last
and the only one cut short (R160); `E_SYNC` comes after calls that all succeeded; these procedures raise no `E_DATA`
(R154). -/
def stopShape : Stop → List Event → Prop
  | .raised (.io k), es => ∃ es' c d, es = es' ++ [.cut c d (.raised (.io k))] ∧ noCuts es'
  | .abandoned, es => ∃ es' c d, es = es' ++ [.cut c d .abandoned] ∧ noCuts es'
  | .raised .sync, es => noCuts es
  | .raised (.data _), _ => False

/-- Everything a procedure started in `s` can do, with at most `n` transport calls. -/
def Runs {α : Type} (l : Level) (n : Nat) (s : State) : Res α → Prop
  | .ok _ t => ∃ es, Trace l s t es ∧ es.length ≤ n ∧ noCuts es ∧ t.bus.mode = chipModeAfter s.bus.mode es
  | .stop why t => ∃ es, Trace l s t es ∧ es.length ≤ n ∧ stopShape why es ∧
      (why = .raised .sync → t.bus.mode = .command ∧ t.bus.mode = chipModeAfter s.bus.mode es)

theorem noCuts_append {as bs : List Event} (ha : noCuts as) (hb : noCuts bs) : noCuts (as ++ bs) := by
  intro e he
  rcases List.mem_append.1 he with h | h
  · exact ha e h
  · exact hb e h

theorem stopShape_append {as bs : List Event} {why : Stop} (ha : noCuts as) (hb : stopShape why bs) :
    stopShape why (as ++ bs) := by
  cases why with
  | raised e =>
    cases e with
    | io k => obtain ⟨es', c, d, rfl, h⟩ := hb; exact ⟨as ++ es', c, d, by simp, noCuts_append ha h⟩
    | sync => exact noCuts_append ha hb
    | data r => exact hb.elim
  | abandoned => obtain ⟨es', c, d, rfl, h⟩ := hb; exact ⟨as ++ es', c, d, by simp, noCuts_append ha h⟩

theorem Trace.trans {l : Level} {s t u : State} {as bs : List Event} (h : Trace l s t as) (k : Trace l t u bs) :
    Trace l s u (as ++ bs) where
  crc := k.crc.trans h.crc
  srch := k.srch.trans h.srch
  requests := k.requests.trans h.requests
  item := k.item.trans h.item
  reply := k.reply.trans h.reply
  level := by
    rcases k.level with e | e
    · rcases h.level with e' | e'
      · exact .inl (e.trans e')
      · exact .inr (e.trans e')
    · exact .inr e
  history := by rw [k.history, h.history, List.append_assoc]
  calls := by rw [k.calls, h.calls, List.length_append, Nat.add_assoc]
  listed := by
    intro e he
    rcases List.mem_append.1 he with h' | h'
    · exact h.listed e h'
    · exact k.listed e h'

theorem Trace.refl (l : Level) (s : State) : Trace l s s [] where
  crc := rfl
  srch := rfl
  requests := rfl
  item := rfl
  reply := rfl
  level := .inl rfl
  history := by simp
  calls := rfl
  listed := by simp

theorem Runs.mono {α : Type} {l : Level} {n m : Nat} {s : State} {r : Res α} (h : Runs l n s r) (hm : n ≤ m) : Runs l m s r := by
  cases r with
  | ok a t => obtain ⟨es, h1, h2, h3⟩ := h; exact ⟨es, h1, h2.trans hm, h3⟩
  | stop why t => obtain ⟨es, h1, h2, h3⟩ := h; exact ⟨es, h1, h2.trans hm, h3⟩

theorem Runs.pure {α : Type} (l : Level) (s : State) (a : α) : Runs l 0 s (.ok a s) :=
  ⟨[], Trace.refl l s, Nat.le_refl _, by simp [noCuts], rfl⟩

/-- Sequencing. -/
theorem Runs.bind {α β : Type} {l : Level} {n m : Nat} {s : State} {r : Res α} {f : α → State → Res β}
    (h : Runs l n s r) (hf : ∀ a t, r = .ok a t → Runs l m t (f a t)) : Runs l (n + m) s (r.bind f) := by
  cases r with
  | stop why t => exact Runs.mono h (by omega)
  | ok a t =>
    obtain ⟨es, h1, h2, h3, h4⟩ := h
    have k := hf a t rfl
    show Runs l (n + m) s (f a t)
    cases hr : f a t with
    | ok b u =>
      rw [hr] at k
      obtain ⟨es', k1, k2, k3, k4⟩ := k
      refine ⟨es ++ es', h1.trans k1, ?_, noCuts_append h3 k3, ?_⟩
      · simp; omega
      · rw [k4, h4, chipModeAfter, chipModeAfter, chipModeAfter, List.foldl_append]
    | stop why u =>
      rw [hr] at k
      obtain ⟨es', k1, k2, k3, k4⟩ := k
      refine ⟨es ++ es', h1.trans k1, by simp; omega, stopShape_append h3 k3, fun hw => ⟨(k4 hw).1, ?_⟩⟩
      rw [(k4 hw).2, h4, chipModeAfter, chipModeAfter, chipModeAfter, List.foldl_append]

theorem Runs.map {α β : Type} {l : Level} {n : Nat} {s : State} {r : Res α} (f : α → β) (h : Runs l n s r) :
    Runs l n s (r.map f) :=
  h.bind (m := 0) fun a t _ => Runs.pure l t (f a)

/-- The events and modes of a completed call, given what it sends. -/
def Call.event (c : Call) (answer : List Byte) : Event :=
  match c with
  | .write B => .write B
  | .read _ => .read answer
  | .setBaud r => .setBaud r
  | .delay ms => .delay ms

theorem Port.complete_event (p : Port) (c : Call) :
    (p.complete c).history = p.history ++ [c.event (p.answer c)] := by
  cases c <;> rfl

/-- The bytes a call would send. -/
def Call.bytes : Call → List Byte
  | .write B => B
  | .read _ => []
  | .setBaud _ => []
  | .delay _ => []

theorem Call.event_sent (c : Call) (a : List Byte) : (c.event a).sent = c.bytes := by cases c <;> rfl

theorem sent_cut (c : Call) (d : Nat) (why : Stop) : (Event.cut c d why).sent = c.bytes.take d := by
  cases c <;> simp [Event.sent, Call.bytes]

/-- One call: the mode the history implies must be the mode of the state it ends in, `m`. -/
theorem transport_runs (l : Level) (s t0 : State) (c : Call) (hl : ∀ b ∈ c.bytes, isListedByte b = true)
    (h0 : t0 = s.setMode t0.bus.mode) (hm : ∀ a, chipModeEvent s.bus.mode (c.event a) = t0.bus.mode) :
    Runs l 1 s (transport c t0) := by
  have hp : t0.port = s.port := by rw [h0]; rfl
  have tr : ∀ (p : Port) (e : Event), p.history = s.port.history ++ [e] → p.calls = s.port.calls + 1 →
      (∀ b ∈ e.sent, isListedByte b = true) → Trace l s (t0.setPort p) [e] := by
    intro p e h1 h2 h3
    rw [h0]
    exact ⟨rfl, rfl, rfl, rfl, rfl, .inl rfl, h1, h2, by simpa using h3⟩
  rcases transport_cases c t0 with h | ⟨k, d, _, h⟩ | ⟨d, h⟩ <;> rw [h]
  · refine ⟨[c.event (t0.port.answer c)], tr _ _ ?_ ?_ ?_, Nat.le_refl _, ?_, ?_⟩
    · rw [← hp]; exact t0.port.complete_event c
    · rw [← hp]; exact t0.port.complete_calls c
    · rw [Call.event_sent]; exact hl
    · intro e he; simp at he; subst he; cases c <;> rfl
    · exact (hm _).symm
  · obtain ⟨h1, h2⟩ := t0.port.cut_history c d (.raised (.io k))
    refine ⟨[.cut c (min d (cutLimit c (.raised (.io k)))) (.raised (.io k))], tr _ _ ?_ ?_ ?_, Nat.le_refl _,
      ⟨[], c, _, rfl, by simp [noCuts]⟩, by simp⟩
    · rw [← hp]; exact h1
    · rw [← hp]; exact h2
    · rw [sent_cut]; exact fun b hb => hl b (List.mem_of_mem_take hb)
  · obtain ⟨h1, h2⟩ := t0.port.cut_history c d .abandoned
    refine ⟨[.cut c (min d (cutLimit c .abandoned)) .abandoned], tr _ _ ?_ ?_ ?_, Nat.le_refl _,
      ⟨[], c, _, rfl, by simp [noCuts]⟩, by simp⟩
    · rw [← hp]; exact h1
    · rw [← hp]; exact h2
    · rw [sent_cut]; exact fun b hb => hl b (List.mem_of_mem_take hb)

/-- A call that does not change the chip's mode. -/
theorem transport_runs_plain (l : Level) (s : State) (c : Call) (hl : ∀ b ∈ c.bytes, isListedByte b = true)
    (hm : ∀ a, chipModeEvent s.bus.mode (c.event a) = s.bus.mode) : Runs l 1 s (transport c s) :=
  transport_runs l s s c hl rfl hm

theorem emit_runs_plain (l : Level) (s : State) (c : Call) (hl : ∀ b ∈ c.bytes, isListedByte b = true)
    (hm : ∀ a, chipModeEvent s.bus.mode (c.event a) = s.bus.mode) : Runs l 1 s (emit c s) :=
  (transport_runs_plain l s c hl hm).map _

/-- Writes of bytes that are no switch byte in the current mode. -/
theorem write_runs (l : Level) (s : State) (B : List Byte) (hl : ∀ b ∈ B, isListedByte b = true)
    (hm : ∀ b ∈ B, chipModeByte s.bus.mode b = s.bus.mode) : Runs l 1 s (emit (.write B) s) := by
  refine emit_runs_plain l s _ hl fun a => ?_
  show B.foldl chipModeByte s.bus.mode = s.bus.mode
  clear hl
  induction B with
  | nil => rfl
  | cons b B ih =>
    rw [List.foldl_cons, hm b (by simp)]
    exact ih fun b' hb' => hm b' (by simp [hb'])

theorem read_runs (l : Level) (s : State) (n : Nat) : Runs l 1 s (transport (.read n) s) :=
  transport_runs_plain l s _ (by simp [Call.bytes]) fun _ => rfl

theorem delay_runs (l : Level) (s : State) (ms : Nat) : Runs l 1 s (emit (.delay ms) s) :=
  emit_runs_plain l s _ (by simp [Call.bytes]) fun _ => rfl

theorem readFiltered_runs (l : Level) (s : State) (n : Nat) : Runs l 1 s (readFiltered params n s) := by
  refine (read_runs l s n).bind (m := 0) fun a t _ => ?_
  rw [filterResponse_quiet]
  exact Runs.pure l t a

theorem readFiltered_ok_bus {n : Nat} {s t : State} {a : List Byte} (h : readFiltered params n s = .ok a t) : t.bus = s.bus := by
  unfold readFiltered at h
  rcases transport_cases (.read n) s with e | ⟨k, d, _, e⟩ | ⟨d, e⟩ <;> rw [e] at h
  · rw [Res.bind_ok, filterResponse_quiet] at h
    cases h; rfl
  · cases h
  · cases h

theorem emit_ok_bus {c : Call} {s t : State} {a : Unit} (h : emit c s = .ok a t) : t.bus = s.bus := by
  unfold emit at h
  rcases transport_cases c s with e | ⟨k, d, _, e⟩ | ⟨d, e⟩ <;> rw [e] at h
  · cases h; rfl
  · cases h
  · cases h

/-- `EnsureMode` (R101). -/
theorem ensureMode_runs (l : Level) (m : Mode) (s : State) : Runs l 1 s (ensureMode params m s) := by
  by_cases h : s.bus.mode = m
  · rw [ensureMode, if_pos h]
    exact (Runs.pure l s ()).mono (by omega)
  · rw [ensureMode, if_neg h]
    -- the write leaves the register; the register follows it
    unfold emit
    rcases transport_cases (.write [modeByte params m]) s with e | ⟨k, d, _, e⟩ | ⟨d, e⟩ <;> rw [e]
    · refine ⟨[.write [modeByte params m]], ⟨rfl, rfl, rfl, rfl, rfl, .inl rfl, rfl, rfl, ?_⟩, Nat.le_refl _, ?_, ?_⟩
      · intro e he b hb
        simp only [List.mem_singleton] at he
        subst he
        cases m <;> simp only [Event.sent, List.mem_singleton] at hb <;> subst hb <;> rfl
      · intro e he; simp at he; subst he; rfl
      · show m = chipModeByte s.bus.mode (modeByte params m)
        revert h
        cases hm : s.bus.mode <;> cases m <;> intro h <;> first | exact absurd rfl h | rfl
    · have k1 := s.port.cut_history (.write [modeByte params m]) d (.raised (.io k))
      refine ⟨[_], ⟨rfl, rfl, rfl, rfl, rfl, .inl rfl, k1.1, k1.2, ?_⟩, Nat.le_refl _, ⟨[], _, _, rfl, by simp [noCuts]⟩, by simp⟩
      intro e he b hb
      simp only [List.mem_singleton] at he
      subst he
      rw [sent_cut] at hb
      have := List.mem_of_mem_take hb
      cases m <;> simp only [Call.bytes, List.mem_singleton] at this <;> subst this <;> rfl
    · have k1 := s.port.cut_history (.write [modeByte params m]) d .abandoned
      refine ⟨[_], ⟨rfl, rfl, rfl, rfl, rfl, .inl rfl, k1.1, k1.2, ?_⟩, Nat.le_refl _, ⟨[], _, _, rfl, by simp [noCuts]⟩, by simp⟩
      intro e he b hb
      simp only [List.mem_singleton] at he
      subst he
      rw [sent_cut] at hb
      have := List.mem_of_mem_take hb
      cases m <;> simp only [Call.bytes, List.mem_singleton] at this <;> subst this <;> rfl

theorem ensureMode_ok_bus {m : Mode} {s t : State} {a : Unit} (h : ensureMode params m s = .ok a t) :
    t.bus = { s.bus with mode := m } := by
  unfold ensureMode at h
  split at h
  · rename_i hm; cases h; subst hm; rfl
  · cases e : emit (.write [modeByte params m]) s with
    | ok a u =>
      rw [e] at h
      cases h
      simp [emit_ok_bus e]
    | stop w u => rw [e] at h; cases h

/-- One write in a given chip mode, of listed bytes that are no switch byte in that mode. -/
theorem sendIn_runs (l : Level) (m : Mode) (B : List Byte) (s : State) (hl : ∀ b ∈ B, isListedByte b = true)
    (hm : ∀ b ∈ B, chipModeByte m b = m) : Runs l 2 s (sendIn params m B s) := by
  refine (ensureMode_runs l m s).bind (m := 1) fun a t h => ?_
  have hb := ensureMode_ok_bus h
  exact write_runs l t B hl (by rw [hb]; exact hm)

theorem sendIn_ok_bus {m : Mode} {B : List Byte} {s t : State} {a : Unit} (h : sendIn params m B s = .ok a t) :
    t.bus = { s.bus with mode := m } := by
  unfold sendIn at h
  cases e : ensureMode params m s with
  | ok a u => rw [e] at h; rw [emit_ok_bus h, ensureMode_ok_bus e]
  | stop w u => rw [e] at h; cases h

/-- The first call of `BUS_DETECT`, after the forced mode (R107): the break is what makes the history agree. -/
theorem break_runs (l : Level) (s : State) :
    Runs l 1 s (emit (.setBaud params.baudBreak) (forceCommand params s)) :=
  (transport_runs l s _ _ (by simp [Call.bytes]) rfl fun _ => rfl).map _

/-- `BUS_DETECT` (R107): 8 calls, `BUS.mode` is Command however it ends, it raises no `E_SYNC` and no `E_DATA`. -/
theorem detect_runs (l : Level) (s : State) : Runs l 8 s (detect params s) := by
  unfold detect emulateBreak
  rw [Res.bind_assoc]
  refine (break_runs l s).bind (m := 7) fun _ t1 h1 => ?_
  have b1 : t1.bus.mode = .command := by rw [emit_ok_bus h1]; rfl
  have chain : ∀ (m : Mode), m = .command → ∀ b ∈ [0x00#8, 0xC1#8, 0x15#8, 0x45#8, 0x5B#8, 0x0F#8, 0x91#8], chipModeByte m b = m := by
    rintro m rfl; decide
  rw [Res.bind_assoc]
  refine Runs.bind (n := 1) (m := 6) (write_runs l t1 _ (by decide) fun b hb => chain _ b1 b ?_) fun _ t2 h2 => ?_
  · revert hb; simp [params]; intro h; simp [h]
  have b2 : t2.bus.mode = .command := by rw [emit_ok_bus h2, b1]
  refine Runs.bind (n := 1) (m := 5) (emit_runs_plain l t2 _ (by simp [Call.bytes]) fun _ => rfl) fun _ t3 h3 => ?_
  have b3 : t3.bus.mode = .command := by rw [emit_ok_bus h3, b2]
  refine Runs.bind (n := 1) (m := 4) (delay_runs l t3 _) fun _ t4 h4 => ?_
  have b4 : t4.bus.mode = .command := by rw [emit_ok_bus h4, b3]
  refine Runs.bind (n := 1) (m := 3) (write_runs l t4 _ (by decide) fun b hb => chain _ b4 b ?_) fun _ t5 h5 => ?_
  · revert hb; simp [params]; intro h; simp [h]
  have b5 : t5.bus.mode = .command := by rw [emit_ok_bus h5, b4]
  refine Runs.bind (n := 1) (m := 2) (delay_runs l t5 _) fun _ t6 h6 => ?_
  have b6 : t6.bus.mode = .command := by rw [emit_ok_bus h6, b5]
  refine Runs.bind (n := 1) (m := 1) (write_runs l t6 _ (by decide) fun b hb => chain _ b6 b ?_) fun _ t7 h7 => ?_
  · revert b; decide
  exact (readFiltered_runs l t7 5).bind (m := 0) fun a t _ => Runs.pure l t _

/-- How a `BUS_DETECT` started with the controller's registers at `b` ends: `BUS.mode` is Command, `BUS.level` is as
before, and a stop is an `E_IO` or an abandonment (R107, R153). -/
def DetectEnd (b : Bus) : Res Bool → Prop
  | .ok _ t => t.bus = { b with mode := .command }
  | .stop w t => t.bus = { b with mode := .command } ∧ w ≠ .raised .sync ∧ ∀ r, w ≠ .raised (.data r)

theorem detectEnd_emit (b : Bus) (c : Call) (u : State) (f : Unit → State → Res Bool)
    (hu : u.bus = { b with mode := .command }) (h : ∀ t, t.bus = { b with mode := .command } → DetectEnd b (f () t)) :
    DetectEnd b ((emit c u).bind f) := by
  unfold emit
  rcases transport_cases c u with e | ⟨k, d, _, e⟩ | ⟨d, e⟩ <;> rw [e]
  · exact h _ hu
  · exact ⟨hu, by simp, by simp⟩
  · exact ⟨hu, by simp, by simp⟩

theorem detect_ends (s : State) : DetectEnd s.bus (detect params s) := by
  unfold detect emulateBreak
  simp only [Res.bind_assoc]
  refine detectEnd_emit _ _ _ _ rfl fun t1 e1 => ?_
  refine detectEnd_emit _ _ _ _ e1 fun t2 e2 => ?_
  refine detectEnd_emit _ _ _ _ e2 fun t3 e3 => ?_
  refine detectEnd_emit _ _ _ _ e3 fun t4 e4 => ?_
  refine detectEnd_emit _ _ _ _ e4 fun t5 e5 => ?_
  refine detectEnd_emit _ _ _ _ e5 fun t6 e6 => ?_
  refine detectEnd_emit _ _ _ _ e6 fun t7 e7 => ?_
  unfold readFiltered
  rcases transport_cases (.read params.detectLength) t7 with h | ⟨k, d, _, h⟩ | ⟨d, h⟩ <;> rw [h]
  · rw [Res.bind_ok, filterResponse_quiet]
    exact e7
  · exact ⟨e7, by simp, by simp⟩
  · exact ⟨e7, by simp, by simp⟩

theorem detect_ok_bus {s t : State} {a : Bool} (h : detect params s = .ok a t) : t.bus = { s.bus with mode := .command } := by
  have e := detect_ends s
  rw [h] at e
  exact e

/-- `Resync` (R106). -/
theorem resync_runs (l : Level) (s : State) : Runs l 8 s (resync params s) := by
  refine (detect_runs l s).bind (m := 0) fun ok t h => ?_
  have hb : t.bus.mode = .command := by rw [detect_ok_bus h]
  cases ok with
  | true => exact Runs.pure l t ()
  | false => exact ⟨[], Trace.refl l t, Nat.le_refl _, by simp [stopShape, noCuts], fun _ => ⟨hb, rfl⟩⟩

theorem resync_ok_bus {s t : State} {a : Unit} (h : resync params s = .ok a t) : t.bus = { s.bus with mode := .command } := by
  unfold resync at h
  cases e : detect params s with
  | ok b u =>
    rw [e] at h
    cases b with
    | true => cases h; exact detect_ok_bus e
    | false => cases h
  | stop w u => rw [e] at h; cases h

/-- `ToNormal` and `ToPulse` (R110, R111), both in Command mode. -/
theorem toLevel_runs (l target : Level) (s : State) (hm : s.bus.mode = .command) : Runs l 2 s (toLevel params target s) := by
  have chain : ∀ b ∈ [0xF1#8, 0xED#8, 0x3F#8], chipModeByte s.bus.mode b = s.bus.mode := by rw [hm]; decide
  unfold toLevel
  split
  · refine Runs.bind (n := 1) (m := 1) (write_runs l s _ (by decide) fun b hb => chain b ?_) fun _ t _ => ?_
    · revert b; decide
    · exact (readFiltered_runs l t 2).bind (m := 0) fun a t _ => Runs.pure l t _
  · refine Runs.bind (n := 1) (m := 1) (write_runs l s _ (by decide) fun b hb => chain b ?_) fun _ t _ => ?_
    · revert b; decide
    · exact (readFiltered_runs l t 1).bind (m := 0) fun a t _ => Runs.pure l t _

theorem Runs.setLevel {α : Type} (l : Level) (s : State) (a : α) : Runs l 0 s (.ok a (s.setLevel l)) :=
  ⟨[], ⟨rfl, rfl, rfl, rfl, rfl, .inr rfl, by simp, rfl, by simp⟩, Nat.le_refl _, by simp [noCuts], rfl⟩

/-- `BUS_LEVEL target` (R109): at most 11 calls; the level afterwards is the old one or the target. -/
theorem changeLevel_runs (target : Level) (s : State) : Runs target 11 s (changeLevel params target s) := by
  unfold changeLevel
  split
  · exact (Runs.pure target s _).mono (by omega)
  · refine (ensureMode_runs target .command s).bind (m := 10) fun _ t h => ?_
    refine Runs.bind (n := 2) (m := 8) (toLevel_runs target target t (by rw [ensureMode_ok_bus h])) fun ok u _ => ?_
    split
    · exact (Runs.setLevel target u target).mono (by omega)
    · exact (resync_runs target u).bind (m := 0) fun _ v _ => Runs.pure target v _

/-- What follows the status byte (R103 to R105). -/
theorem statusOutcome_runs (l : Level) (b : Byte) (s : State) : Runs l 8 s (statusOutcome params b s) := by
  unfold statusOutcome
  split
  · exact (Runs.pure l s _).mono (by omega)
  · exact (resync_runs l s).bind (m := 0) fun _ v _ => Runs.pure l v _

/-- `BUS_RESET` (R103): the level afterwards is the old one or Normal. -/
theorem resetBus_runs (s : State) : Runs .normal 22 s (resetBus params s) := by
  unfold resetBus
  refine (changeLevel_runs .normal s).bind (m := 11) fun _ t _ => ?_
  refine Runs.bind (n := 2) (m := 9) (sendIn_runs .normal .command _ t (by decide) (by decide)) fun _ u _ => ?_
  exact (read_runs .normal u 1).bind (m := 8) fun r v _ => statusOutcome_runs .normal _ v

end Sys2Proof.Machine
end

