-- ==== Sys2Proof/Laws/SearchRuns.lean ====
section
/-! SUPPORT. Everything the parts of `SEARCH_NEXT` can do, in the form of Laws/Runs.lean, and what a stop of an item hands to
the host. -/

namespace Sys2Proof.Machine

/-- Step 3 (R132): at most 4 calls. -/
theorem selectSearch_runs (s : State) : Runs .normal 4 s (selectSearch params s) := by
  unfold selectSearch
  refine Runs.bind (n := 2) (m := 2) (sendIn_runs .normal .data _ s ?_ ?_) fun _ t _ =>
    sendIn_runs .normal .command _ t (by decide) (by decide)
  · cases s.srch.alarmOnly <;> decide
  · cases s.srch.alarmOnly <;> decide

theorem selectSearch_ok_bus {s t : State} {a : Unit} (h : selectSearch params s = .ok a t) :
    t.bus = { s.bus with mode := .command } := by
  unfold selectSearch at h
  cases e : sendIn params .data [searchCommand params s.srch.alarmOnly] s with
  | ok b u => rw [e, Res.bind_ok] at h; rw [sendIn_ok_bus h, sendIn_ok_bus e]
  | stop w u => rw [e] at h; cases h

/-- A byte with the data bits clear is a listed byte and no switch byte (R47). -/
theorem frameByte_sendable (b : Byte) (h : b &&& 0xAA#8 = 0#8) : isListedByte b = true ∧ chipModeByte .data b = .data := by
  revert b; decide

/-- Step 4 (R132): at most 2 calls, for a frame whose bytes have the data bits clear (R92 e). -/
theorem sendFrame_runs (s : State) (hf : ∀ b ∈ encodeFrame params s.srch.rom s.srch.lastDiscrepancy, b &&& 0xAA#8 = 0#8) :
    Runs .normal 2 s (sendFrame params s) :=
  sendIn_runs .normal .data _ s (fun b hb => (frameByte_sendable b (hf b hb)).1)
    fun b hb => (frameByte_sendable b (hf b hb)).2

/-- Step 5 (R132): at most 25 calls. -/
theorem readSearchResponse_runs (s : State) : Runs .normal 25 s (readSearchResponse params s) := by
  unfold readSearchResponse
  refine Runs.bind (n := 1) (m := 24) (readFiltered_runs .normal s 17) fun r t _ => ?_
  refine Runs.bind (n := 2) (m := 22) (sendIn_runs .normal .command _ t (by decide) (by decide)) fun _ u _ => ?_
  exact Runs.bind (n := 22) (m := 0) (resetBus_runs u) fun _ v _ => Runs.pure .normal v _

/-- What step 5 returns was decoded from a read of 17 bytes (R132, R94). -/
theorem readSearchResponse_ok {s t : State} {d : Decoded} (h : readSearchResponse params s = .ok d t) :
    ∃ r : List Byte, r.length = 17 ∧ d = decodeResponse params r := by
  unfold readSearchResponse readFiltered at h
  rcases transport_cases (.read params.responseLength) s with e | ⟨k, x, _, e⟩ | ⟨x, e⟩ <;> rw [e] at h
  · rw [Res.bind_ok, filterResponse_quiet, Res.bind_ok] at h
    refine ⟨s.port.answer (.read params.responseLength), by simp [Port.answer], ?_⟩
    cases e2 : sendIn params .command [params.cmdSearchAccelOff] (s.setPort (s.port.complete (.read params.responseLength))) with
    | stop w u => rw [e2] at h; cases h
    | ok a u =>
      rw [e2, Res.bind_ok] at h
      cases e3 : resetBus params u with
      | stop w v => rw [e3] at h; cases h
      | ok b v => rw [e3, Res.bind_ok] at h; exact (Res.ok.inj h).1.symm
  · cases h
  · cases h

/-- Steps 6 to 8 (R132 to R134): the transport is not used; the cursor is written exactly when the code is returned. -/
theorem acceptRom_cases (d : Decoded) (s : State) :
    (validate params d.rom d.lastZero = none ∧
      acceptRom params d s = .ok (.rom d.rom) (s.setCursor (nextCursor s.srch d))) ∨
    (∃ r, validate params d.rom d.lastZero = some r ∧ acceptRom params d s = .stop (.raised (.data r)) s) := by
  unfold acceptRom
  cases h : validate params d.rom d.lastZero with
  | none => exact .inl ⟨rfl, rfl⟩
  | some r => exact .inr ⟨r, rfl, rfl⟩

/-- The three tests of step 6 (R133). -/
theorem validate_none {rom : List Byte} {lz : Nat} (h : validate params rom lz = none) :
    crcFold params rom = 0 ∧ lz ≠ 63 ∧ rom.getD 0 0 ≠ 0 := by
  unfold validate at h
  split at h
  · cases h
  · split at h
    · cases h
    · split at h
      · cases h
      · exact ⟨not_not.1 ‹¬crcFold params rom ≠ 0›, ‹_›, ‹_›⟩

/-- The reply of a stop (R150, R163). -/
@[simp] theorem Stop.reply_raised (e : Error) : (Stop.raised e).reply = some (.error e) := rfl
@[simp] theorem Stop.reply_abandoned : Stop.abandoned.reply = none := rfl

end Sys2Proof.Machine
end

