-- ==== Sys2Proof/Tests/Slice0.lean ====
section
/-! SUPPORT. Tests of the model: ill-formed terms, words written out from the spec, the vectors of spec/95_test_vectors.md as
single steps, and for every statement with hypotheses a concrete state and operands that meet them. Every expected
value is the spec's. -/

namespace Sys2Proof.Tests

open Sys2Proof Sys2Proof.Machine

/-! ### Small states -/

/-- A transport whose next `n` calls succeed and whose next bytes are `rx`. -/
def port (n : Nat) (rx : List Byte) : Port := { Port.reset with script := List.replicate n .ok, rx := rx }

/-- The power-on state with other bookkeeping and that transport. -/
def start (m : Mode) (l : Level) (n : Nat) (rx : List Byte) : State :=
  { State.reset with bus := { mode := m, level := l }, port := port n rx }

/-- A transport whose next call has the verdict `v`, after `n` calls that succeed. -/
def portThen (n : Nat) (v : Verdict) (rx : List Byte) : Port :=
  { Port.reset with script := List.replicate n .ok ++ [v], rx := rx }

/-- Command mode, level Normal, and a transport that cuts call `n` short. -/
def startThen (n : Nat) (v : Verdict) (rx : List Byte) : State := { State.reset with port := portThen n v rx }

/-- A fresh session over `start`. -/
def session (n : Nat) (rx : List Byte) : State :=
  { start .command .normal n rx with srch := freshCursor params false }

/-- What a test looks at: the result, the controller's registers and the events. -/
def seen : Host.Outcome State Fault Refusal → Option (Option Reply × Bus × List Event)
  | .next t => some (t.reply, t.bus, t.port.history)
  | .fault _ => none
  | .refused _ => none

/-- The cursor after an item. -/
def cursorAfter : Host.Outcome State Fault Refusal → Option Srch
  | .next t => some t.srch
  | .fault _ => none
  | .refused _ => none

/-- The value and the events of a procedure that returns. -/
def returned : Res (List Byte) → Option (List Byte × List Event)
  | .ok r t => some (r, t.port.history)
  | .stop _ _ => none

theorem grants_start (m : Mode) (l : Level) (n : Nat) (rx : List Byte) : (start m l n rx).port.grants n := by
  intro j hj; simp [start, port, Port.verdictAt, hj]

theorem grants_startThen (n : Nat) (v : Verdict) (rx : List Byte) : (startThen n v rx).port.grants n := by
  intro j hj; simp [startThen, portThen, Port.verdictAt, hj, List.getElem?_append]

theorem verdict_startThen (n : Nat) (v : Verdict) (rx : List Byte) : (startThen n v rx).port.verdictAt n = v := by
  simp [startThen, portThen, Port.verdictAt]

/-- ROM codes A, B and C of 95 section 1.3. -/
def romA : List Byte := [0x28, 0xFF, 0x4A, 0x1B, 0x33, 0x17, 0x04, 0x69]
def romB : List Byte := [0x10, 0x50, 0xA9, 0x0A, 0x02, 0x08, 0x00, 0x37]
def romC : List Byte := [0x28, 0x01, 0x00, 0x00, 0x00, 0x00, 0x00, 0x29]

/-- The response of program P6: device B alone. -/
def respB : List Byte :=
  [0xF0, 0x02, 0x00, 0x22, 0x00, 0x88, 0x82, 0x00, 0x88, 0x00, 0x08, 0x00, 0x80, 0x00, 0x00, 0x0A, 0x2A]

/-- The response of program P3, step 1: device B with a discrepancy at position 4. -/
def respP3 : List Byte :=
  [0xF0, 0x02, 0x40, 0x22, 0x00, 0x88, 0x82, 0x00, 0x88, 0x00, 0x08, 0x00, 0x80, 0x00, 0x00, 0x0A, 0x2A]

/-- The response of program P5: one bit flipped. -/
def respP5 : List Byte :=
  [0xF0, 0x02, 0x00, 0x22, 0x00, 0x8A, 0x82, 0x00, 0x88, 0x00, 0x08, 0x00, 0x80, 0x00, 0x00, 0x0A, 0x2A]

/-- The first response of vector 2.9 (d): a good CRC with position 63. -/
def resp63 : List Byte :=
  [0xF0, 0x08, 0x80, 0x00, 0x00, 0x00, 0x00, 0x00, 0x00, 0x00, 0x00, 0x00, 0x00, 0x00, 0x00, 0x12, 0xA8]

/-- The bytes of a search step whose resets are answered 0xCD. -/
def stepBytes (r : List Byte) : List Byte := 0xCD :: (r ++ [0xCD])

/-- The predicate of vectors 2.4, for illustration only (C1). -/
def illustrated : Config := { params with notify := fun b => b &&& 0x03#8 == 0x01#8 }

/-! ### WellFormed: an ill-formed term for each check -/

theorem test_wf_encode_length : (Instr.encode (zeroBytes 7) 0).wellFormed = false := by decide
theorem test_wf_encode_position : (Instr.encode (zeroBytes 8) 65).wellFormed = false := by decide
theorem test_wf_decode_length : (Instr.decode (zeroBytes 16)).wellFormed = false := by decide
theorem test_wf_frame_byte : (Instr.frameByte 0x02).wellFormed = false := by decide
theorem test_wf_comm_own_row : ∀ p ∈ [(FunctionSelect.reset, SpeedSelect.standard), (.chmod, .pulse), (.chmod, .standard),
    (.searchOn, .standard), (.searchOff, .standard)], (Instr.commFormat p.1 p.2).wellFormed = false := by decide
theorem test_wf_config_own_row : ∀ p ∈ [(ParameterSelect.slew, 2#3), (.write1Low, 2#3), (.sampleOffset, 5#3), (.parmRead, 7#3),
    (.pulse5V, 7#3)], (Instr.configFormat p.1 p.2).wellFormed = false := by decide
theorem test_wf_resp5_length : (Instr.resp5 (zeroBytes 4)).wellFormed = false := by decide
theorem test_wf_resp17_length : (Instr.resp17 (zeroBytes 18)).wellFormed = false := by decide
theorem test_wf_rom_length : (Instr.romCode (zeroBytes 9)).wellFormed = false := by decide

/-! ### Decode: a word of every row (R69, R51, R59, R52, R56, R60 to R67) -/

theorem test_decode_hostops : ∀ p ∈ [
    (([0x00] : List Byte), Instr.crcNew), ([0x01, 0x28], .crcCalc 0x28), (0x02 :: (romA ++ [0x09]), .encode romA 9),
    (0x03 :: respB, .decode respB), ([0x04], .busReset), ([0x05], .busDetect), ([0x06, 0x00], .busLevel .normal),
    ([0x06, 0x01], .busLevel .overdrive), ([0x06, 0x02], .busLevel .strong5), ([0x06, 0x03], .busLevel .program),
    ([0x06, 0x04], .busLevel .break_), ([0x07, 0x01], .searchNew true), ([0x08], .searchNext)],
    (decode ⟨.hostop, p.1⟩).toOption = some p.2 := by decide

theorem test_decode_reserved : ∀ p ∈ [
    (0x09#8, Instr.reserved9), (0x0A#8, .reserved10), (0x0B#8, .reserved11), (0x0C#8, .reserved12), (0x0D#8, .reserved13),
    (0x0E#8, .reserved14), (0x0F#8, .reserved15)], (decode ⟨.hostop, [p.1]⟩).toOption = some p.2 := by decide

theorem test_decode_sent : ∀ p ∈ [
    (Format.fixed, 0xE1#8, Instr.cmdModeData), (.fixed, 0xE3, .cmdModeCommand), (.comm, 0xC1, .cmdBusReset),
    (.fixed, 0xC1, .cmdReset), (.config, 0x15, .cfgSlew), (.config, 0x45, .cfgWrite1Low), (.config, 0x5B, .cfgSampleOffset),
    (.config, 0x0F, .probeBaudRead), (.comm, 0x91, .probeBitTest), (.fixed, 0xF1, .cmdPulseTerminate),
    (.comm, 0xED, .cmdChmodPulse), (.config, 0x3F, .cfgPulse5VInfinite), (.data, 0xF0, .cmdSearchRom),
    (.data, 0xEC, .cmdSearchAlarm), (.fixed, 0xB1, .cmdSearchAccelOn), (.fixed, 0xA1, .cmdSearchAccelOff),
    (.data, 0x00, .breakFiller), (.frame16, 0x54, .frameByte 0x54), (.comm, 0x89, .commFormat .bit .overdrive),
    (.config, 0x27, .configFormat .pulse12V 3)], (decode ⟨p.1, [p.2.1]⟩).toOption = some p.2.2 := by decide

theorem test_decode_received : ∀ p ∈ [
    (Format.status, ([0xCD] : List Byte), Instr.status 0xCD), (.resp5, [0x16, 0x44, 0x5A, 0x00, 0x93], .resp5 [0x16, 0x44, 0x5A, 0x00, 0x93]),
    (.confirm, [0xEC, 0xF4], .confirmNormal 0xEC 0xF4), (.confirm, [0x3E], .confirmPulse 0x3E), (.resp17, respB, .resp17 respB),
    (.notify, [0x45], .notification 0x45), (.rom8, romA, .romCode romA)], (decode ⟨p.1, p.2.1⟩).toOption = some p.2.2 := by decide

/-- U2, U3, R53 (U11), R68: what the decoder refuses. -/
theorem test_decode_refuses : ∀ r ∈ [
    Request.mk .hostop (0x02 :: (romA ++ [0x41])), ⟨.hostop, [0x06, 0x05]⟩, ⟨.hostop, [0x07, 0x02]⟩, ⟨.hostop, [0x10]⟩, ⟨.hostop, []⟩,
    ⟨.comm, [0xD1]⟩, ⟨.comm, [0x83]⟩, ⟨.config, [0x10]⟩, ⟨.frame16, [0x02]⟩, ⟨.resp5, [0x00]⟩],
    (decode r).toOption = none := by decide

/-- Words as spec/opcode_table.json numbers them (log entry 8). -/
theorem test_table_words : decodeTableWord 8 0x04 = some .busReset ∧ decodeTableWord 8 0x91 = some .probeBitTest ∧
    decodeTableWord 8 0xE1 = some .cmdModeData ∧ decodeTableWord 16 0x0206 = some (.busLevel .strong5) := by decide

/-! ### CRC8 and codec (95 sections 2.1 to 2.3, programs P1 and P7) -/

/-- 2.1: the check string "123456789" folds to 0xA1, ROM A to 0. -/
theorem test_crc_fold : crcFold params [0x31, 0x32, 0x33, 0x34, 0x35, 0x36, 0x37, 0x38, 0x39] = 0xA1 ∧ crcFold params romA = 0 := by decide +kernel

/-- P1: from 0xE1, `CRC_CALC FF` gives 0x82; then `CRC_NEW` gives 0. -/
theorem test_crc_calc : seen (exec (.crcCalc 0xFF) { State.reset with crc := { state := 0xE1 } }) =
    some (some (.state 0x82), State.reset.bus, []) := by decide

theorem test_crc_new : seen (exec .crcNew { State.reset with crc := { state := 0xA2 } }) = some (some .done, State.reset.bus, []) := by decide

/-- 2.2, row (A, 64): the forced last bit differs from the replayed one. -/
theorem test_encode : seen (exec (.encode romA 64) State.reset) =
    some (some (.frame [0x40, 0x04, 0x55, 0x55, 0x44, 0x10, 0x45, 0x01, 0x05, 0x05, 0x15, 0x01, 0x10, 0x00, 0x41, 0x54]),
      State.reset.bus, []) := by decide

/-- 2.2, row (C, 10). -/
theorem test_encode_prefix : encodeFrame params romC 10 = [0x40, 0x04, 0x05] ++ zeroBytes 13 := by decide

/-- 2.3, third row: a flag with data 0 counts, a steering bit with data 1 does not. -/
theorem test_decode_op : seen (exec (.decode [0xF0, 0x08, 0xD0, 0xAA, 0xAA, 0x20, 0x88, 0x02, 0x8A, 0x0A, 0x0A, 0x02, 0x2A, 0x00, 0x20, 0x28, 0x82]) State.reset) =
    some (some (.decoded romA 3 3), State.reset.bus, []) := by decide

/-- 2.3: the flag at i = 8 is no family discrepancy. -/
theorem test_decode_family : decodeResponse params ([0xF0, 0x00, 0x00, 0x00, 0x01] ++ zeroBytes 12) =
    { rom := zeroBytes 8, lastZero := 9, family := 0 } := by decide

/-- 2.3: `Quirk` on 17 different bytes. -/
theorem test_quirk : quirk [0x10, 0x11, 0x12, 0x13, 0x14, 0x15, 0x16, 0x17, 0x18, 0x19, 0x1A, 0x1B, 0x1C, 0x1D, 0x1E, 0x1F, 0x20] =
    [0x10, 0x12, 0x11, 0x14, 0x13, 0x16, 0x15, 0x18, 0x17, 0x1A, 0x19, 0x1C, 0x1B, 0x1E, 0x1D, 0x20, 0x1F] := by decide

/-! ### ReadFiltered (95 section 2.4) -/

/-- Row 1, and the default predicate on its bytes. -/
theorem test_filter_row1 :
    returned (readFiltered illustrated 5 (start .command .normal 2 [0x16, 0x45, 0x44, 0x5A, 0x00, 0x92])) =
      some ([0x16, 0x44, 0x5A, 0x00, 0x92], [.read [0x16, 0x45, 0x44, 0x5A, 0x00], .read [0x92]]) ∧
    returned (readFiltered params 5 (start .command .normal 2 [0x16, 0x45, 0x44, 0x5A, 0x01])) =
      some ([0x16, 0x45, 0x44, 0x5A, 0x01], [.read [0x16, 0x45, 0x44, 0x5A, 0x01]]) := by decide

/-- Row 2 (a filler that is a notification) and row 4 (the last index). -/
theorem test_filter_row2 :
    returned (readFiltered illustrated 5 (start .command .normal 3 [0x01, 0x05, 0x10, 0x20, 0x30, 0x09, 0x40])) =
      some ([0x05, 0x10, 0x20, 0x30, 0x40], [.read [0x01, 0x05, 0x10, 0x20, 0x30], .read [0x09], .read [0x40]]) ∧
    returned (readFiltered illustrated 2 (start .command .normal 2 [0x10, 0x21, 0x05])) =
      some ([0x10, 0x05], [.read [0x10, 0x21], .read [0x05]]) := by decide

/-- Rows 5 and 6: Data mode and single bytes are not filtered. -/
theorem test_filter_off :
    returned (readFiltered illustrated 2 (start .data .normal 1 [0x10, 0x21])) = some ([0x10, 0x21], [.read [0x10, 0x21]]) ∧
    returned (readFiltered illustrated 1 (start .command .normal 1 [0x21])) = some ([0x21], [.read [0x21]]) := by decide

/-! ### Bus Controller (95 sections 2.5 to 2.7, programs P2 and P4) -/

/-- P2. -/
theorem test_bus_reset : seen (exec .busReset (start .data .strong5 5 [0xEC, 0xF4, 0xCD])) =
    some (some (.presence true), readyBus,
      [.write [0xE3], .write [0xF1, 0xED, 0xF1], .read [0xEC, 0xF4], .write [0xC1], .read [0xCD]]) := by decide

/-- 2.5, `E_IO` on the status read from Data mode. -/
theorem test_bus_reset_timeout :
    seen (exec .busReset { startThen 2 (.fail .timeout 0) [] with bus := { mode := .data, level := .normal } }) =
    some (some (.error (.io .timeout)), readyBus,
      [.write [0xE3], .write [0xC1], .cut (.read 1) 0 (.raised (.io .timeout))]) := by decide

/-- P4. -/
theorem test_bus_detect : seen (exec .busDetect (start .data .normal 8 [0x16, 0x44, 0x5A, 0x00, 0x93])) =
    some (some (.synced true), readyBus,
      [.setBaud 2400, .write [0x00], .setBaud 9600, .delay 2, .write [0xC1], .delay 2,
        .write [0x15, 0x45, 0x5B, 0x0F, 0x91], .read [0x16, 0x44, 0x5A, 0x00, 0x93]]) := by decide

/-- 2.6, last row: a timeout is an error, not false, and leaves Command mode. -/
theorem test_bus_detect_timeout :
    (seen (exec .busDetect { startThen 7 (.fail .timeout 4) [] with bus := { mode := .data, level := .strong5 } })).map
      (fun r => (r.1, r.2.1)) =
    some (some (.error (.io .timeout)), { mode := .command, level := .strong5 }) := by decide

/-- 2.7: Strong5 to Program, accepted. -/
theorem test_bus_level : seen (exec (.busLevel .program) (start .command .strong5 2 [0x3E])) =
    some (some (.level .program), { mode := .command, level := .program }, [.write [0x3F, 0xED], .read [0x3E]]) := by decide

/-- 2.7: Strong5 to Normal, rejected, fallback fails: `E_SYNC`, the old level. -/
theorem test_bus_level_rejected :
    (seen (exec (.busLevel .normal) (start .command .strong5 10 [0x00, 0x00, 0x00, 0x00, 0x00, 0xFF, 0xFF]))).map
      (fun r => (r.1, r.2.1)) =
    some (some (.error .sync), { mode := .command, level := .strong5 }) := by decide

/-! ### Search Engine (95 sections 2.8 and 2.9, programs P3, P5 and P6) -/

theorem test_search_new : cursorAfter (exec (.searchNew true) State.reset) =
    some { alarmOnly := true, rom := zeroBytes 8, lastDiscrepancy := 0, lastFamilyDiscrepancy := 0, exhausted := false } := by decide

/-- P3, step 1: the events and the result. -/
theorem test_search_next : seen (exec .searchNext (session 13 (stepBytes respP3))) =
    some (some (.rom romB), readyBus,
      [.write [0xC1], .read [0xCD], .write [0xE1], .write [0xF0], .write [0xE3], .write [0xB1], .write [0xE1],
        .write (zeroBytes 16), .read respP3, .write [0xE3], .write [0xA1], .write [0xC1], .read [0xCD]]) := by decide +kernel

/-- P3, step 1: the cursor. -/
theorem test_search_next_cursor : cursorAfter (exec .searchNext (session 13 (stepBytes respP3))) =
    some { alarmOnly := false, rom := romB, lastDiscrepancy := 4, lastFamilyDiscrepancy := 4, exhausted := false } := by decide +kernel

/-! ### Single items (R59, R104, R108, R110, R111, R61) -/

theorem test_sent_search_rom : seen (exec .cmdSearchRom (start .command .normal 2 [])) =
    some (some .done, { mode := .data, level := .normal }, [.write [0xE1], .write [0xF0]]) := by decide

theorem test_sent_comm : seen (exec (.commFormat .bit .overdrive) (start .data .normal 2 [])) =
    some (some .done, readyBus, [.write [0xE3], .write [0x89]]) := by decide

theorem test_sent_config : seen (exec (.configFormat .pulse12V 3) (start .command .normal 1 [])) =
    some (some .done, readyBus, [.write [0x27]]) := by decide

theorem test_received_status : (seen (exec (.status 0xCE) State.reset)).map (·.1) = some (some (.presence true)) ∧
    (seen (exec (.status 0x0C) State.reset)).map (·.1) = some (some (.presence false)) := by decide

theorem test_received_confirm : (seen (exec (.confirmNormal 0xEC 0x14) State.reset)).map (·.1) = some (some (.accepted false)) ∧
    (seen (exec (.confirmPulse 0xBE) State.reset)).map (·.1) = some (some (.accepted false)) := by decide

theorem test_received_rom : (seen (exec (.romCode romA) State.reset)).map (·.1) = some (some (.rom romA)) ∧
    (seen (exec (.romCode (zeroBytes 8)) State.reset)).map (·.1) = some (some (.error (.data .family))) := by decide +kernel

/-! ### Witnesses: for every statement with hypotheses, a state and operands that meet all of them, clause by clause -/

/-- EncodeBuildsTheSearchFrame: an 8-byte ROM, the positions 64 and 65 on both sides of the boundary. -/
theorem witness_encode : romA.length = 8 ∧ 64 ≤ 64 ∧ 64 < 65 := by decide

/-- FrameBytesAreNeverASwitchByte: a byte of the frame of 2.2, row (A, 9). -/
theorem witness_frame_byte : 0x40#8 ∈ encodeFrame params romA 9 := by decide

/-- QuirkSwapsEachPair, DecodeReadsTheResponse, SearchResponseAndNotificationOutcome. -/
theorem witness_response_length : respB.length = 17 := by decide

/-- CodecRoundTrip: A echoed with the steering bits of `ENCODE A, 9`. -/
def echoA : List Byte := [0xC0, 0x0C, 0xAB, 0xAA, 0x88, 0x20, 0x8A, 0x02, 0x0A, 0x0A, 0x2A, 0x02, 0x20, 0x00, 0x82, 0x28]

theorem witness_round_trip : romA.length = 8 ∧ 9 ≤ 64 ∧ echoA.length = 16 ∧
    ∀ i, i < 64 → bit echoA (2 * i + 1) = bit romA i ∧ bit echoA (2 * i) = bit (encodeFrame params romA 9) (2 * i) := by
  decide +kernel

/-- AppendedChecksumFoldsToZero: an 8-byte code. -/
theorem witness_rom_length : romB.length = 8 := by decide

/-- TransportReadsAndWritesInOrder: a next call that succeeds, and one that fails in a read of at least one byte. -/
theorem witness_transport : (start .command .normal 1 [0x01]).port.verdictAt 0 = .ok ∧
    (startThen 0 (.fail .timeout 1) [0x01]).port.verdictAt 0 = .fail .timeout 1 ∧ 1 ≤ 2 :=
  ⟨grants_start _ _ 1 _ 0 (by decide), verdict_startThen 0 _ _, by decide⟩

/-- ReadFilteredKeepsTheLength: a filtered read that returns, with a notification met. -/
theorem witness_filter_returns : ∃ t, readFiltered illustrated 2 (start .command .normal 2 [0x10, 0x21, 0x05]) = .ok [0x10, 0x05] t :=
  ⟨_, rfl⟩

/-- ReadFilteredKeepsTheLength, last clause: each of its three premises, in a read that returns. -/
theorem witness_filter_quiet :
    (∃ r t, readFiltered illustrated 2 (start .data .normal 1 [0x10, 0x21]) = .ok r t) ∧
    (∃ r t, readFiltered illustrated 1 (start .command .normal 1 [0x21]) = .ok r t) ∧
    (∃ r t, readFiltered illustrated 2 (start .command .normal 1 [0x10, 0x20]) = .ok r t) ∧
    ∀ b, b ∈ (start .command .normal 1 [0x10, 0x20]).port.incoming 2 → illustrated.notify b = false :=
  ⟨⟨_, _, rfl⟩, ⟨_, _, rfl⟩, ⟨_, _, rfl⟩, by decide⟩

/-- ReadFilteredRemovesANotification, first clause: index 0, where the byte that slides in is a notification too, and the last
index, where the filler is one. -/
theorem witness_filter_removes :
    (let s := start .command .normal 2 [0x45, 0x05, 0x44, 0x5A, 0x00, 0x92];
      0 < 5 ∧ s.bus.mode = .command ∧ s.port.grants 2 ∧ illustrated.notify (s.port.byteAt 0) = true ∧
        illustrated.notify (s.port.byteAt 1) = true ∧
        ∀ j, j < 0 ∨ (0 + 2 ≤ j ∧ j ≤ 5) → illustrated.notify (s.port.byteAt j) = false) ∧
    (let s := start .command .normal 2 [0x10, 0x21, 0x05];
      1 < 2 ∧ s.bus.mode = .command ∧ s.port.grants 2 ∧ illustrated.notify (s.port.byteAt 1) = true ∧
        illustrated.notify (s.port.byteAt 2) = true ∧
        ∀ j, j < 1 ∨ (1 + 2 ≤ j ∧ j ≤ 2) → illustrated.notify (s.port.byteAt j) = false) := by
  refine ⟨⟨by decide, rfl, grants_start _ _ 2 _, by decide, by decide, ?_⟩, by decide, rfl, grants_start _ _ 2 _, by decide,
    by decide, ?_⟩
  · intro j h
    have : j = 2 ∨ j = 3 ∨ j = 4 ∨ j = 5 := by omega
    rcases this with rfl | rfl | rfl | rfl <;> rfl
  · intro j h
    have : j = 0 := by omega
    subst this; rfl

/-- ReadFilteredRemovesANotification, second clause: row 2 of 2.4, and index `n - 2`. -/
theorem witness_filter_replaces :
    (let s := start .command .normal 3 [0x01, 0x05, 0x10, 0x20, 0x30, 0x09, 0x40];
      0 + 1 < 5 ∧ s.bus.mode = .command ∧ s.port.grants 3 ∧ illustrated.notify (s.port.byteAt 0) = true ∧
        illustrated.notify (s.port.byteAt 5) = true ∧
        ∀ j, j < 0 ∨ (0 + 2 ≤ j ∧ j < 5) → illustrated.notify (s.port.byteAt j) = false) ∧
    (let s := start .command .normal 3 [0x21, 0x10, 0x05, 0x09];
      0 + 1 < 2 ∧ s.bus.mode = .command ∧ s.port.grants 3 ∧ illustrated.notify (s.port.byteAt 0) = true ∧
        illustrated.notify (s.port.byteAt 2) = true ∧
        ∀ j, j < 0 ∨ (0 + 2 ≤ j ∧ j < 2) → illustrated.notify (s.port.byteAt j) = false) := by
  refine ⟨⟨by decide, rfl, grants_start _ _ 3 _, by decide, by decide, ?_⟩, by decide, rfl, grants_start _ _ 3 _, by decide,
    by decide, fun j h => by omega⟩
  intro j h
  have : j = 2 ∨ j = 3 ∨ j = 4 := by omega
  rcases this with rfl | rfl | rfl <;> rfl

/-- ModeSwitchFollowsTheWrite: a switch that is needed and served, one that is not needed, one whose write fails. -/
theorem witness_mode_switch :
    (start .command .normal 1 []).port.grants (modeSwitchCalls .command .data).length ∧
    (start .data .normal 0 []).port.grants (modeSwitchCalls .data .data).length ∧
    (startThen 0 (.fail .other 0) []).bus.mode ≠ .data ∧ (startThen 0 (.fail .other 0) []).port.verdictAt 0 = .fail .other 0 :=
  ⟨grants_start _ _ 1 _, grants_start _ _ 0 _, by decide, verdict_startThen 0 _ _⟩

/-- FixedBytesAreSentInTheirMode: a Command byte from Data mode, a Data byte from Command mode; fourteen rows. -/
theorem witness_fixed_bytes :
    fixedByteRow .cmdBusReset = some (.command, 0xC1) ∧ (start .data .normal 2 []).port.grants ((modeSwitchCalls .data .command).length + 1) ∧
    fixedByteRow .cmdSearchRom = some (.data, 0xF0) ∧ (start .command .normal 2 []).port.grants ((modeSwitchCalls .command .data).length + 1) :=
  ⟨rfl, grants_start _ _ 2 _, rfl, grants_start _ _ 2 _⟩

/-- FormatBytesAreComposedAndSent, its three clauses. -/
theorem witness_format_bytes :
    0x55#8 &&& 0xAA#8 = 0#8 ∧ (start .command .normal 2 []).port.grants ((modeSwitchCalls .command .data).length + 1) ∧
    (Instr.commFormat .bit .standard).wellFormed = true ∧ (Instr.configFormat .slew 7).wellFormed = true ∧
    (start .data .normal 2 []).port.grants ((modeSwitchCalls .data .command).length + 1) :=
  ⟨by decide, grants_start _ _ 2 _, by decide, by decide, grants_start _ _ 2 _⟩

/-- BreakFillerIsSentAtTheLowRate. -/
theorem witness_break : (start .data .normal 3 []).port.grants 3 := grants_start _ _ 3 _

/-- StatusByteOutcome: a byte in sync, a byte out of sync with a transport that serves the fallback. -/
theorem witness_status : 0xCD#8 &&& 0x1C#8 = 0x0C#8 ∧ 0x01#8 &&& 0x1C#8 ≠ 0x0C#8 ∧
    (start .command .normal 8 [0x16, 0x44, 0x5A, 0x00, 0x93]).port.grants 8 :=
  ⟨by decide, by decide, grants_start _ _ 8 _⟩

/-- ResponsesAreAcceptedByTheirMasks, RomCodeIsDeliveredWhenValid, DetectNeverAcceptsGarbage. -/
theorem witness_lengths : ([0x16, 0x44, 0x5A, 0x00, 0x93] : List Byte).length = 5 ∧ romA.length = 8 := by decide

/-- BusDetectExchange: a transport that serves the eight calls; one whose first call fails, one whose last call fails. -/
theorem witness_detect :
    (start .data .normal 8 []).port.grants 8 ∧
    (detectCalls[0]? = some (.setBaud 2400) ∧ (Call.setBaud 2400).canFail = true ∧ (startThen 0 (.fail .other 0) []).port.grants 0 ∧
      (startThen 0 (.fail .other 0) []).port.verdictAt 0 = .fail .other 0) ∧
    (detectCalls[7]? = some (.read 5) ∧ (Call.read 5).canFail = true ∧ (startThen 7 (.fail .timeout 4) []).port.grants 7 ∧
      (startThen 7 (.fail .timeout 4) []).port.verdictAt 7 = .fail .timeout 4) :=
  ⟨grants_start _ _ 8 _, ⟨rfl, rfl, grants_startThen 0 _ _, verdict_startThen 0 _ _⟩, rfl, rfl, grants_startThen 7 _ _,
    verdict_startThen 7 _ _⟩

/-- BusResetExchange: P2 (the cascade is run and accepted, the status byte in sync), and a status byte out of sync at level
Normal with a transport that serves the fallback. -/
theorem witness_bus_reset :
    (let s := start .data .strong5 5 [0xEC, 0xF4, 0xCD];
      cascadeAccepted s ∧ s.port.grants ((cascadeCalls s.bus).length + 2) ∧
        s.port.byteAt (cascadeBytes s.bus) &&& 0x1C#8 = 0x0C#8) ∧
    (let s := start .command .normal 10 [0x01, 0x16, 0x44, 0x5A, 0x00, 0x93];
      cascadeAccepted s ∧ s.port.grants ((cascadeCalls s.bus).length + 10) ∧
        s.port.byteAt (cascadeBytes s.bus) &&& 0x1C#8 ≠ 0x0C#8) :=
  ⟨⟨.inr (by decide), grants_start _ _ 5 _, by decide⟩, .inl rfl, grants_start _ _ 10 _, by decide⟩

/-- BusResetGoesOnAfterARejectedCascade, its three clauses: the second confirmation byte fails its mask, and the fallback
answers false; the fallback succeeds and the status byte is in sync; the status byte is out of sync. -/
theorem witness_rejected_cascade :
    (let s := start .command .strong5 10 [0xEC, 0x14, 0x00, 0x00, 0x00, 0xFF, 0xFF];
      s.bus.level ≠ .normal ∧ ¬ cascadeAccepted s ∧ s.port.grants ((cascadeCalls s.bus).length + 8) ∧
        detectAccepts (s.port.bytesFrom 2 5) = false) ∧
    (let s := start .command .strong5 12 [0xEC, 0x14, 0x16, 0x44, 0x5A, 0x00, 0x93, 0xCD];
      s.bus.level ≠ .normal ∧ ¬ cascadeAccepted s ∧ s.port.grants ((cascadeCalls s.bus).length + 10) ∧
        detectAccepts (s.port.bytesFrom 2 5) = true ∧ s.port.byteAt 7 &&& 0x1C#8 = 0x0C#8) ∧
    (let s := start .data .break_ 21 [0x14, 0xEC, 0x16, 0x44, 0x5A, 0x00, 0x93, 0x01, 0x16, 0x44, 0x5A, 0x00, 0x90];
      s.bus.level ≠ .normal ∧ ¬ cascadeAccepted s ∧ s.port.grants ((cascadeCalls s.bus).length + 18) ∧
        detectAccepts (s.port.bytesFrom 2 5) = true ∧ s.port.byteAt 7 &&& 0x1C#8 ≠ 0x0C#8) :=
  ⟨⟨by decide, by rintro (h | h) <;> revert h <;> decide, grants_start _ _ 10 _, by decide⟩,
    ⟨by decide, by rintro (h | h) <;> revert h <;> decide, grants_start _ _ 12 _, by decide, by decide⟩,
    by decide, by rintro (h | h) <;> revert h <;> decide, grants_start _ _ 21 _, by decide, by decide⟩

/-- BusLevelExchange: the level already wanted; accepted and rejected, towards Normal and away from it. -/
theorem witness_bus_level :
    (start .command .normal 0 []).bus.level = .normal ∧
    (Level.normal ≠ (start .data .strong5 3 [0xEC, 0xF4]).bus.level ∧ levelConfirmed .normal (start .data .strong5 3 [0xEC, 0xF4]).port ∧
      (start .data .strong5 3 [0xEC, 0xF4]).port.grants ((modeSwitchCalls .data .command).length + 2)) ∧
    (Level.break_ ≠ (start .command .normal 2 [0x3E]).bus.level ∧ levelConfirmed .break_ (start .command .normal 2 [0x3E]).port ∧
      (start .command .normal 2 [0x3E]).port.grants ((modeSwitchCalls .command .command).length + 2)) ∧
    (¬ levelConfirmed .normal (start .command .strong5 10 [0xEC, 0x14]).port ∧
      (start .command .strong5 10 [0xEC, 0x14]).port.grants ((modeSwitchCalls .command .command).length + 10)) ∧
    (¬ levelConfirmed .strong5 (start .command .normal 10 [0xBE]).port ∧
      (start .command .normal 10 [0xBE]).port.grants ((modeSwitchCalls .command .command).length + 10)) :=
  ⟨rfl, ⟨by decide, by unfold levelConfirmed; decide, grants_start _ _ 3 _⟩,
    ⟨by decide, by unfold levelConfirmed; decide, grants_start _ _ 2 _⟩,
    ⟨by unfold levelConfirmed; decide, grants_start _ _ 10 _⟩, by unfold levelConfirmed; decide, grants_start _ _ 10 _⟩

/-- BusLevelExchange, the failing call: the switch byte's write from Data mode; the confirmation read, the last call of the
exchange; the first and the last call of the fallback after a rejection. -/
theorem witness_bus_level_fails :
    (let s := { startThen 0 (.fail .other 0) [] with bus := { mode := .data, level := .normal } };
      Level.strong5 ≠ s.bus.level ∧ 0 < (modeSwitchCalls s.bus.mode .command).length + 2 ∧
        (levelCallsAll .strong5 s.bus.mode)[0]? = some (.write [0xE3]) ∧ (Call.write [0xE3]).canFail = true ∧
        s.port.grants 0 ∧ s.port.verdictAt 0 = .fail .other 0) ∧
    (let s := startThen 1 (.fail .timeout 0) [];
      Level.strong5 ≠ s.bus.level ∧ 1 < (modeSwitchCalls s.bus.mode .command).length + 2 ∧
        (levelCallsAll .strong5 s.bus.mode)[1]? = some (.read 1) ∧ (Call.read 1).canFail = true ∧
        s.port.grants 1 ∧ s.port.verdictAt 1 = .fail .timeout 0) ∧
    (let s := startThen 2 (.fail .other 0) [0xBE];
      Level.strong5 ≠ s.bus.level ∧ ¬ levelConfirmed .strong5 s.port ∧
        (levelCallsAll .strong5 s.bus.mode)[2]? = some (.setBaud 2400) ∧ (Call.setBaud 2400).canFail = true ∧
        s.port.grants 2 ∧ s.port.verdictAt 2 = .fail .other 0) ∧
    (let s := startThen 9 (.fail .timeout 4) [0xBE];
      Level.strong5 ≠ s.bus.level ∧ ¬ levelConfirmed .strong5 s.port ∧
        (levelCallsAll .strong5 s.bus.mode)[9]? = some (.read 5) ∧ (Call.read 5).canFail = true ∧
        s.port.grants 9 ∧ s.port.verdictAt 9 = .fail .timeout 4) :=
  ⟨⟨by decide, by decide, rfl, rfl, grants_startThen 0 _ _, verdict_startThen 0 _ _⟩,
    ⟨by decide, by decide, rfl, rfl, grants_startThen 1 _ _, verdict_startThen 1 _ _⟩,
    ⟨by decide, by unfold levelConfirmed; decide, rfl, rfl, grants_startThen 2 _ _, verdict_startThen 2 _ _⟩,
    by decide, by unfold levelConfirmed; decide, rfl, rfl, grants_startThen 9 _ _, verdict_startThen 9 _ _⟩

/-- ExhaustedSearchDoesNoIO: the power-on state. -/
theorem witness_exhausted : State.reset.srch.exhausted = true := rfl

theorem grants_session (n : Nat) (rx : List Byte) : (session n rx).port.grants n := grants_start .command .normal n rx

/-- EmptyBusLeavesTheCursor: vector 2.9 (b). -/
theorem witness_empty_bus :
    let s := session 2 [0xCF]
    s.srch.exhausted = false ∧ cascadeAccepted s ∧ s.port.grants ((cascadeCalls s.bus).length + 2) ∧
      s.port.byteAt (cascadeBytes s.bus) &&& 0x1C#8 = 0x0C#8 ∧ presenceBits (s.port.byteAt (cascadeBytes s.bus)) = false :=
  ⟨rfl, .inl rfl, grants_session 2 _, by decide, by decide⟩

/-- A fresh session whose resets are answered 0xCD reaches step 6, with the 17 bytes decoded. -/
theorem session_reaches (r : List Byte) (h : r.length = 17) :
    SearchReachesStep6 (session 13 (stepBytes r)) ∧ searchDecoded (session 13 (stepBytes r)) = decodeResponse params r := by
  have hb : ∀ j, (session 13 (stepBytes r)).port.byteAt j = (stepBytes r)[j]?.getD (Config.freeByte (0 + j)) := fun j => rfl
  have h0 : (session 13 (stepBytes r)).port.byteAt 0 = 0xCD#8 := rfl
  have h18 : (session 13 (stepBytes r)).port.byteAt 18 = 0xCD#8 := by
    rw [hb]; simp [stepBytes, h]
  refine ⟨⟨rfl, .inl rfl, grants_session 13 _, ?_, ?_, ?_⟩, ?_⟩
  · show (session 13 (stepBytes r)).port.byteAt 0 &&& 0x1C#8 = 0x0C#8
    rw [h0]; decide
  · show presenceBits ((session 13 (stepBytes r)).port.byteAt 0) = true
    rw [h0]; decide
  · show (session 13 (stepBytes r)).port.byteAt 18 &&& 0x1C#8 = 0x0C#8
    rw [h18]; decide
  · show decodeResponse params ((session 13 (stepBytes r)).port.bytesFrom 1 17) = decodeResponse params r
    congr 1
    apply List.ext_getElem
    · simp [h]
    · intro j h1 h2
      have e : (stepBytes r)[1 + j]? = some r[j] := by
        simp [stepBytes, Nat.add_comm 1 j, List.getElem?_append, h2]
      simp [Port.bytesFrom, hb, e]

/-- SearchNextYieldsTheRom: program P3, step 1. -/
theorem witness_search_yields :
    let s := session 13 (stepBytes respP3)
    SearchReachesStep6 s ∧ crcFold params (searchDecoded s).rom = 0 ∧ (searchDecoded s).lastZero ≠ 63 ∧
      (searchDecoded s).rom.getD 0 0 ≠ 0 := by
  obtain ⟨h1, h2⟩ := session_reaches respP3 rfl
  refine ⟨h1, ?_⟩
  rw [h2]
  decide +kernel

/-- SearchNextRejectsACorruptResponse, one response for each failing test: P5, vectors 2.9 (d) and (c). -/
theorem witness_search_rejects :
    (SearchReachesStep6 (session 13 (stepBytes respP5)) ∧ crcFold params (searchDecoded (session 13 (stepBytes respP5))).rom ≠ 0) ∧
    (SearchReachesStep6 (session 13 (stepBytes resp63)) ∧ (searchDecoded (session 13 (stepBytes resp63))).lastZero = 63) ∧
    (SearchReachesStep6 (session 13 (stepBytes (zeroBytes 17))) ∧
      (searchDecoded (session 13 (stepBytes (zeroBytes 17)))).rom.getD 0 0 = 0) := by
  obtain ⟨a1, a2⟩ := session_reaches respP5 rfl
  obtain ⟨b1, b2⟩ := session_reaches resp63 rfl
  obtain ⟨c1, c2⟩ := session_reaches (zeroBytes 17) rfl
  rw [a2, b2, c2]
  exact ⟨⟨a1, by decide +kernel⟩, ⟨b1, by decide +kernel⟩, c1, by decide +kernel⟩

/-- The next state of an item that has one. -/
def nextOf (r : Host.Outcome State Fault Refusal) : State :=
  match r with
  | .next t => t
  | .fault _ => State.reset
  | .refused _ => State.reset

/-- Whether an item has a next state. -/
def goesOn : Host.Outcome State Fault Refusal → Bool
  | .next _ => true
  | .fault _ => false
  | .refused _ => false

theorem eq_next {r : Host.Outcome State Fault Refusal} (h : goesOn r = true) : r = .next (nextOf r) := by
  cases r with
  | next t => rfl
  | fault f => cases h
  | refused f => cases h

/-- CursorIsWhollyOldOrWhollyNew, ReturnedRomCodesAreValid: a step that returns a ROM code (P3, step 1). -/
theorem witness_search_returns_rom :
    let t := nextOf (exec .searchNext (session 13 (stepBytes respP3)))
    exec .searchNext (session 13 (stepBytes respP3)) = .next t ∧ t.reply = some (.rom romB) :=
  ⟨eq_next (by decide +kernel), by decide +kernel⟩

/-- SearchNextIsBoundedWithoutResync: a step with no rate change among its events. -/
theorem witness_search_bounded :
    let t := nextOf (exec .searchNext (session 2 [0xCF]))
    exec .searchNext (session 2 [0xCF]) = .next t ∧
      t.port.history = (session 2 [0xCF]).port.history ++ [.write [0xC1], .read [0xCF]] ∧
      ∀ e ∈ [Event.write [0xC1], .read [0xCF]], isBaudEvent e = false :=
  ⟨rfl, by decide +kernel, by decide⟩

/-- EveryWellFormedInstructionGoesOn, IllFormedOperandsAreRefused, DecodeOfEncode. -/
theorem witness_wellFormed : (Instr.encode romA 64).wellFormed = true ∧
    Instr.encode romA 64 ∉ [Instr.reserved9, .reserved10, .reserved11, .reserved12, .reserved13, .reserved14, .reserved15] ∧
    (Instr.encode romA 65).wellFormed = false := by decide

/-- RegistersChangeOnlyThroughTheirOperations: an item that changes the CRC register, one that changes the cursor, one
that changes the controller's registers. -/
theorem witness_registers_change :
    (∃ t, exec (.crcCalc 0x01) State.reset = .next t ∧ t.crc ≠ State.reset.crc) ∧
    (∃ t, exec (.searchNew true) State.reset = .next t ∧ t.srch ≠ State.reset.srch) ∧
    (isHostOp .busDetect = true ∧ ∃ t, exec .busDetect (start .data .normal 8 (zeroBytes 5)) = .next t ∧
      t.bus ≠ (start .data .normal 8 (zeroBytes 5)).bus) :=
  ⟨⟨_, rfl, by decide⟩, ⟨_, rfl, by decide⟩, rfl, nextOf (exec .busDetect (start .data .normal 8 (zeroBytes 5))),
    rfl, by decide +kernel⟩

/-- LevelChangesOnlyToTheTarget. -/
theorem witness_level_changes :
    let s := start .command .normal 2 [0x3E]
    let t := nextOf (exec (.busLevel .strong5) s)
    exec (.busLevel .strong5) s = .next t ∧ t.bus.level ≠ s.bus.level := ⟨rfl, by decide +kernel⟩

/-- ErrorsArePreciseAtTransportEvents: a step that ends at a call, and one that does not. -/
theorem witness_errors_precise :
    (let t := nextOf (exec .busDetect (startThen 1 (.fail .other 0) []));
      exec .busDetect (startThen 1 (.fail .other 0) []) = .next t ∧ endsAtACall t.reply = true) ∧
    (let t := nextOf (exec .busDetect (start .data .normal 8 (zeroBytes 5)));
      exec .busDetect (start .data .normal 8 (zeroBytes 5)) = .next t ∧ endsAtACall t.reply = false) :=
  ⟨⟨rfl, by decide +kernel⟩, rfl, by decide +kernel⟩

/-- OnlyListedBytesAreSent, ModeBookkeepingFollowsTheBytesSent: a host operation that sends, with no call cut short. -/
theorem witness_events :
    let s := start .data .normal 3 [0xCD]
    let t := nextOf (exec .busReset s)
    isHostOp .busReset = true ∧ exec .busReset s = .next t ∧
      t.port.history = s.port.history ++ [.write [0xE3], .write [0xC1], .read [0xCD]] ∧
      ∀ e ∈ [Event.write [0xE3], .write [0xC1], .read [0xCD]], e.isCut = false :=
  ⟨rfl, rfl, by decide +kernel, by decide⟩

/-- SyncErrorLeavesCommandMode: the last row of 2.7's rejections. -/
theorem witness_sync_error :
    let s := start .command .strong5 10 (zeroBytes 7)
    let t := nextOf (exec (.busLevel .normal) s)
    exec (.busLevel .normal) s = .next t ∧ t.reply = some (.error .sync) := ⟨rfl, by decide +kernel⟩

/-- AbandonedOperationDeliversNothing: a `BUS_DETECT` dropped at its second call, with the event of that call. -/
theorem witness_abandoned :
    let s := startThen 1 (.abandon 1) []
    let t := nextOf (exec .busDetect s)
    isHostOp .busDetect = true ∧ exec .busDetect s = .next t ∧ t.reply = none ∧
      t.port.history = s.port.history ++ [.setBaud 2400] ++ [.cut (.write [0x00]) 1 .abandoned] :=
  ⟨rfl, rfl, by decide +kernel, by decide +kernel⟩

/-- HostReadsEveryRegister: a cursor whose ROM register has its 8 bytes. -/
theorem witness_host_reads : State.reset.srch.rom.length = 8 := rfl

/-- TransportCallsAreBounded, CrcStateIsReadOnlyByCrcCalc. -/
theorem witness_not_crcCalc : (∀ b, Instr.searchNew true ≠ .crcCalc b) ∧ ∃ t, exec (.searchNew true) State.reset = .next t :=
  ⟨by simp, _, rfl⟩

/-- StepKeepsTheCursorInvariant: a cursor that meets the invariant with every clause in use (P3 after step 1), and a step from
it; the request is `SEARCH_NEXT`. -/
theorem witness_invariant :
    let s := { start .command .normal 0 [] with
      srch := { alarmOnly := false, rom := romB, lastDiscrepancy := 4, lastFamilyDiscrepancy := 4, exhausted := false }
      requests := [[0x07, 0x00]] }
    Inv s ∧ ∃ t, step s = .next t := by
  refine ⟨⟨rfl, by simp, by decide, by decide, by decide, by decide +kernel, .inr (by decide), ?_⟩, _, rfl⟩
  intro i hi
  have : i = 3 := by simp at hi; omega
  subst this; decide

/-- StepRunsTheDecodedInstruction: a request, with no item; an item. -/
theorem witness_step :
    (let s := { State.reset with requests := [[0x00], [0x04]] };
      s.item = none ∧ s.requests = [0x00] :: [[0x04]] ∧ decode ⟨.hostop, [0x00]⟩ = .ok .crcNew) ∧
    (let s := { State.reset with item := some ⟨.fixed, [0xE1]⟩ };
      s.item = some ⟨.fixed, [0xE1]⟩ ∧ decode ⟨.fixed, [0xE1]⟩ = .ok .cmdModeData) :=
  ⟨⟨rfl, rfl, rfl⟩, rfl, rfl⟩

/-- StepIdlesOrRefuses: the power-on state; a request and an item that are no instruction; a step that runs a host operation. -/
theorem witness_step_idles :
    State.reset.item = none ∧ State.reset.requests = [] ∧
    (∃ why, decode ⟨.hostop, [0x06, 0x05]⟩ = .error why) ∧ (∃ why, decode ⟨.comm, [0xD1]⟩ = .error why) ∧
    (let s := { State.reset with requests := [[0x08]] };
      s.item = none ∧ ∃ t, step s = .next t ∧ t.reply = some .noMoreDevices) :=
  ⟨rfl, rfl, ⟨_, rfl⟩, ⟨_, rfl⟩, rfl, _, rfl, rfl⟩

/-- FetchWordRunsNext: a host operation's word, a wire word; DecodedInstructionsAreWellFormed: a format other than COMM. -/
theorem witness_fetch_word : decodeTableWord 8 0x00 = some .crcNew ∧ decodeTableWord 8 0xE1 = some .cmdModeData ∧
    decode ⟨.config, [0x27]⟩ = .ok (.configFormat .pulse12V 3) ∧ Format.config ≠ .comm :=
  ⟨rfl, rfl, rfl, by decide⟩

/-- The ghost flag after one step, and what the step answered. -/
def owed (owedBefore : Bool) (s : State) : Option (Bool × Option Reply) :=
  match stepOwed (owedBefore, s) with
  | .next g => some (g.1, g.2.reply)
  | .fault _ => none
  | .refused _ => none

/-- R161: an `E_DATA` sets the ghost flag (P5), and so does an operation dropped by the host (R164). -/
theorem test_error_sets_flag :
    owed false { session 13 (stepBytes respP5) with requests := [[0x08]] } = some (true, some (.error (.data .crc))) ∧
    owed false { startThen 0 (.abandon 0) [] with requests := [[0x05]] } = some (true, none) := by decide +kernel

/-- R161: a `BUS_DETECT` that answers true clears the flag; one that answers false, a response row and an idle step do not. -/
theorem test_detect_clears_flag :
    owed true { start .data .normal 8 [0x16, 0x44, 0x5A, 0x00, 0x93] with requests := [[0x05]] } = some (false, some (.synced true)) ∧
    owed true { start .data .normal 8 (zeroBytes 5) with requests := [[0x05]] } = some (true, some (.synced false)) ∧
    owed true { State.reset with item := some ⟨.resp5, [0x16, 0x44, 0x5A, 0x00, 0x93]⟩ } = some (true, some (.synced true)) ∧
    owed false State.reset = some (false, none) := by decide +kernel

/-- R186: the byte 0xE3 of a mode switch and the COMM byte 0xED, issued by the host, are no operations and reach no transport. -/
theorem test_host_sends_no_byte :
    seen (step (State.reset.issue [0xE3])) = none ∧ seen (step (State.reset.issue [0xED])) = none := by decide

end Sys2Proof.Tests
end

/-! ## The end of a procedure, and what a procedure ignores -/

namespace Sys2Proof.Machine

open Host (Outcome)

/-! ### The end state of a procedure -/

/-- The state in which a procedure ends, whether it returned or stopped. -/
def Res.state {α : Type} : Res α → State
  | .ok _ s => s
  | .stop _ s => s

@[simp] theorem Res.state_ok {α : Type} (a : α) (s : State) : (Res.ok a s).state = s := rfl
@[simp] theorem Res.state_stop {α : Type} (e : Stop) (s : State) : (Res.stop e s : Res α).state = s := rfl

@[simp] theorem Res.state_map {α β : Type} (f : α → β) (r : Res α) : (r.map f).state = r.state := by cases r <;> rfl

theorem Res.bind_eq_ok {α β : Type} {r : Res α} {f : α → State → Res β} {b : β} {u : State} (h : r.bind f = .ok b u) :
    ∃ a t, r = .ok a t ∧ f a t = .ok b u := by
  cases r with
  | ok a t => exact ⟨a, t, rfl, h⟩
  | stop e t => cases h

/-- The end of a host operation changes the reply and nothing else. -/
theorem finish_next {r : Res Reply} {t : State} (h : finish r = .next t) : ∃ a, t = r.state.setReply a := by
  cases r with
  | ok a s => exact ⟨some a, (Outcome.next.inj h).symm⟩
  | stop e s => exact ⟨e.reply, (Outcome.next.inj h).symm⟩

theorem guarded_next {i : Instr} {r : Outcome State Fault Refusal} {t : State} (h : guarded i r = .next t) : r = .next t := by
  unfold guarded at h
  split at h
  · exact h
  · cases h

/-! ### Updates of the state that a procedure does not see -/

/-- The same end in an updated state. -/
def Res.mapState {α : Type} (g : State → State) : Res α → Res α
  | .ok a s => .ok a (g s)
  | .stop e s => .stop e (g s)

/-- The same outcome with the next state updated. -/
def mapNext (g : State → State) : Outcome State Fault Refusal → Outcome State Fault Refusal
  | .next s => .next (g s)
  | .fault f => .fault f
  | .refused r => .refused r

/-- `g` leaves `BUS.mode` and the port alone: no byte sent, no byte read and no mode switch can tell `g s` from `s`. -/
structure Inert (g : State → State) : Prop where
  mode : ∀ s, (g s).bus.mode = s.bus.mode
  port : ∀ s, (g s).port = s.port
  setPort : ∀ p s, (g s).setPort p = g (s.setPort p)
  setMode : ∀ m s, (g s).setMode m = g (s.setMode m)
  setReply : ∀ r s, (g s).setReply r = g (s.setReply r)

/-- `g` leaves `BUS.level` alone too, so that the level changes cannot tell. -/
structure LevelInert (g : State → State) : Prop extends Inert g where
  level : ∀ s, (g s).bus.level = s.bus.level
  setLevel : ∀ l s, (g s).setLevel l = g (s.setLevel l)

theorem setLevel_inert (l : Level) : Inert (State.setLevel l) :=
  ⟨fun _ => rfl, fun _ => rfl, fun _ _ => rfl, fun _ _ => rfl, fun _ _ => rfl⟩

theorem setCrc_inert (v : Byte) : LevelInert (State.setCrc v) :=
  ⟨⟨fun _ => rfl, fun _ => rfl, fun _ _ => rfl, fun _ _ => rfl, fun _ _ => rfl⟩, fun _ => rfl, fun _ _ => rfl⟩

theorem setCursor_inert (k : Srch) : LevelInert (State.setCursor k) :=
  ⟨⟨fun _ => rfl, fun _ => rfl, fun _ _ => rfl, fun _ _ => rfl, fun _ _ => rfl⟩, fun _ => rfl, fun _ _ => rfl⟩

/-- The procedure does the same in the updated state, and keeps the update. -/
def Ignores {α : Type} (g : State → State) (f : State → Res α) : Prop := ∀ s, f (g s) = (f s).mapState g

theorem Ignores.pure {α : Type} (g : State → State) (a : α) : Ignores g (Res.ok a) := fun _ => rfl

theorem Ignores.raise {α : Type} (g : State → State) (e : Error) : Ignores g (raise e : State → Res α) := fun _ => rfl

theorem Ignores.bind {α β : Type} {g : State → State} {f : State → Res α} {k : α → State → Res β}
    (hf : Ignores g f) (hk : ∀ a, Ignores g (k a)) : Ignores g (fun s => (f s).bind k) := by
  intro s
  show (f (g s)).bind k = ((f s).bind k).mapState g
  rw [hf s]
  cases f s with
  | ok a t => exact hk a t
  | stop e t => rfl

theorem Ignores.map {α β : Type} {g : State → State} {f : State → Res α} (p : α → β) (hf : Ignores g f) :
    Ignores g (fun s => (f s).map p) :=
  hf.bind fun a => Ignores.pure g (p a)

theorem Ignores.comp {α : Type} {g h : State → State} {f : State → Res α} (hf : Ignores g f) (hh : ∀ s, h (g s) = g (h s)) :
    Ignores g (fun s => f (h s)) := by
  intro s
  show f (h (g s)) = _
  rw [hh s]
  exact hf (h s)

theorem Ignores.finish {g : State → State} {f : State → Res Reply} (hg : Inert g) (hf : Ignores g f) (s : State) :
    finish (f (g s)) = mapNext g (finish (f s)) := by
  rw [hf s]
  cases f s with
  | ok a t => exact congrArg Outcome.next (hg.setReply _ t)
  | stop e t => exact congrArg Outcome.next (hg.setReply _ t)

theorem guarded_mapNext (g : State → State) (i : Instr) {r r' : Outcome State Fault Refusal} (h : r' = mapNext g r) :
    guarded i r' = mapNext g (guarded i r) := by
  unfold guarded
  split
  · exact h
  · rfl

/-- An instruction that keeps an update `g` ends in a state that `g` leaves as it is, when it starts in one. -/
theorem fixed_of_mapNext {g : State → State} {i : Instr} {s t : State} (h : exec i (g s) = mapNext g (exec i s))
    (hs : g s = s) (hn : exec i s = .next t) : g t = t := by
  rw [hs, hn] at h
  exact (Outcome.next.inj h).symm

section
variable {g : State → State}

/-! ### The procedures of the Bus Controller that do not use the level -/

theorem transport_ignores (hg : Inert g) (c : Call) : Ignores g (transport c) := by
  intro s
  unfold transport
  rw [hg.port]
  cases s.port.verdictFor c <;> exact congrArg _ (hg.setPort _ s)

theorem emit_ignores (hg : Inert g) (c : Call) : Ignores g (emit c) := (transport_ignores hg c).map _

theorem ensureMode_ignores (hg : Inert g) (m : Mode) : Ignores g (ensureMode params m) := by
  intro s
  unfold ensureMode
  rw [hg.mode]
  split
  · rfl
  · exact Ignores.bind (k := fun _ s => .ok () (s.setMode m)) (emit_ignores hg _)
      (fun _ t => congrArg (Res.ok ()) (hg.setMode m t)) s

theorem sendIn_ignores (hg : Inert g) (m : Mode) (B : List Byte) : Ignores g (sendIn params m B) :=
  (ensureMode_ignores hg m).bind fun _ => emit_ignores hg _

theorem filterResponse_ignores (g : State → State) (buf : List Byte) : Ignores g (filterResponse params buf) := by
  intro s
  rw [filterResponse_quiet, filterResponse_quiet]
  rfl

theorem readFiltered_ignores (hg : Inert g) (n : Nat) : Ignores g (readFiltered params n) :=
  (transport_ignores hg _).bind fun buf => filterResponse_ignores g buf

theorem emulateBreak_ignores (hg : Inert g) : Ignores g (emulateBreak params) :=
  (emit_ignores hg _).bind fun _ => (emit_ignores hg _).bind fun _ => emit_ignores hg _

/-- With R5's values the forced write is that of the mode alone (D20). -/
theorem forceCommand_commutes (hg : Inert g) (s : State) : forceCommand params (g s) = g (forceCommand params s) :=
  hg.setMode .command s

theorem detect_ignores (hg : Inert g) : Ignores g (detect params) :=
  ((emulateBreak_ignores hg).comp (forceCommand_commutes hg)).bind fun _ => (emit_ignores hg _).bind fun _ =>
    (emit_ignores hg _).bind fun _ => (emit_ignores hg _).bind fun _ => (emit_ignores hg _).bind fun _ =>
    (readFiltered_ignores hg _).map _

theorem resync_ignores (hg : Inert g) : Ignores g (resync params) :=
  (detect_ignores hg).bind fun ok => by
    cases ok with
    | true => exact Ignores.pure g ()
    | false => exact Ignores.raise g .sync

theorem statusOutcome_ignores (hg : Inert g) (b : Byte) : Ignores g (statusOutcome params b) := by
  intro s
  unfold statusOutcome
  split
  · rfl
  · exact (resync_ignores hg).bind (fun _ => Ignores.pure g _) s

theorem toLevel_ignores (hg : Inert g) (target : Level) : Ignores g (toLevel params target) := by
  intro s
  unfold toLevel
  split
  · exact (emit_ignores hg _).bind (fun _ => (readFiltered_ignores hg 2).map _) s
  · exact (emit_ignores hg _).bind (fun _ => (readFiltered_ignores hg 1).map _) s

/-! ### The procedures that use the level -/

theorem returnLevel_ignores (hg : LevelInert g) : Ignores g fun s => Res.ok s.bus.level s := by
  intro s
  show Res.ok (g s).bus.level (g s) = Res.ok s.bus.level (g s)
  rw [hg.level]

theorem changeLevel_ignores (hg : LevelInert g) (target : Level) : Ignores g (changeLevel params target) := by
  intro s
  unfold changeLevel
  rw [hg.level]
  split
  · rfl
  · refine (ensureMode_ignores hg.toInert .command).bind (fun _ => (toLevel_ignores hg.toInert target).bind fun ok => ?_) s
    cases ok with
    | true => exact fun t => congrArg (Res.ok target) (hg.setLevel target t)
    | false => exact (resync_ignores hg.toInert).bind fun _ => returnLevel_ignores hg

theorem resetBus_ignores (hg : LevelInert g) : Ignores g (resetBus params) :=
  (changeLevel_ignores hg .normal).bind fun _ => (sendIn_ignores hg.toInert _ _).bind fun _ =>
    (transport_ignores hg.toInert _).bind fun _ => statusOutcome_ignores hg.toInert _

/-! ### The instructions -/

theorem sendByte_ignores (hg : Inert g) (m : Mode) (b : Byte) (s : State) :
    sendByte m b (g s) = mapNext g (sendByte m b s) :=
  ((sendIn_ignores hg m [b]).map _).finish hg s

theorem switchMode_ignores (hg : Inert g) (m : Mode) (s : State) : switchMode m (g s) = mapNext g (switchMode m s) :=
  ((ensureMode_ignores hg m).map _).finish hg s

theorem execNotification_ignores (hg : Inert g) (b : Byte) (s : State) :
    execNotification b (g s) = mapNext g (execNotification b s) := by
  unfold execNotification
  rw [filterLoop_quiet, filterLoop_quiet, ite_self, ite_self]
  exact (Ignores.pure g (Reply.responseByte b)).finish hg s

theorem execRomCode_ignores (hg : Inert g) (rom : List Byte) (s : State) :
    execRomCode rom (g s) = mapNext g (execRomCode rom s) := by
  refine guarded_mapNext g _ ?_
  cases validate params rom 0 with
  | none => exact (Ignores.pure g (Reply.rom rom)).finish hg s
  | some reason => exact (Ignores.raise g (.data reason)).finish hg s

/-- The instructions that read or write another register than `BUS.mode`. -/
def usesRegisters : Instr → Bool
  | .crcNew | .crcCalc _ | .busReset | .busLevel _ | .searchNew _ | .searchNext => true
  | _ => false

/-- An instruction that uses no register but `BUS.mode` does the same whatever the other registers hold, and leaves them. -/
theorem exec_ignores (hg : Inert g) (i : Instr) (hi : usesRegisters i = false) (s : State) :
    exec i (g s) = mapNext g (exec i s) := by
  cases i
  case crcNew | crcCalc | busReset | busLevel | searchNew | searchNext => cases hi
  case encode rom ld => exact guarded_mapNext g _ ((Ignores.pure g _).finish hg s)
  case decode r => exact guarded_mapNext g _ ((Ignores.pure g _).finish hg s)
  case busDetect => exact ((detect_ignores hg).map _).finish hg s
  case reserved9 | reserved10 | reserved11 | reserved12 | reserved13 | reserved14 | reserved15 => rfl
  case cmdModeData | cmdModeCommand => exact switchMode_ignores hg _ s
  case cmdBusReset | cmdReset | cfgSlew | cfgWrite1Low | cfgSampleOffset | probeBaudRead | probeBitTest | cmdPulseTerminate |
      cmdChmodPulse | cfgPulse5VInfinite | cmdSearchRom | cmdSearchAlarm | cmdSearchAccelOn | cmdSearchAccelOff =>
    exact sendByte_ignores hg _ _ s
  case breakFiller => exact ((emulateBreak_ignores hg).map _).finish hg s
  case frameByte | commFormat | configFormat => exact guarded_mapNext g _ (sendByte_ignores hg _ _ s)
  case status b => exact ((statusOutcome_ignores hg b).map _).finish hg s
  case resp5 | resp17 => exact guarded_mapNext g _ (((filterResponse_ignores g _).map _).finish hg s)
  case confirmNormal | confirmPulse => exact ((filterResponse_ignores g _).map _).finish hg s
  case notification b => exact execNotification_ignores hg b s
  case romCode rom => exact execRomCode_ignores hg rom s

theorem execBusReset_ignores (hg : LevelInert g) (s : State) : exec .busReset (g s) = mapNext g (exec .busReset s) :=
  ((resetBus_ignores hg).map _).finish hg.toInert s

theorem execBusLevel_ignores (hg : LevelInert g) (l : Level) (s : State) :
    exec (.busLevel l) (g s) = mapNext g (exec (.busLevel l) s) :=
  ((changeLevel_ignores hg l).map _).finish hg.toInert s

end

end Sys2Proof.Machine

/-! ## The search, cut before its last steps -/

namespace Sys2Proof.Machine

open Host (Outcome)

/-- Steps 1 to 5 of `SEARCH_NEXT` (R132): what was decoded, or nothing when no device is left or present. -/
def searchRead (c : Config) (s : State) : Res (Option Decoded) :=
  if s.srch.exhausted then .ok none s
  else (resetBus c s).bind fun present s =>
    if present then
      (selectSearch c s).bind fun _ s => (sendFrame c s).bind fun _ s => (readSearchResponse c s).map some
    else .ok none s

/-- Steps 6 to 8 of `SEARCH_NEXT` (R132): they do not use the transport. -/
def searchAnswer (c : Config) : Option Decoded → State → Res Reply
  | none, s => .ok .noMoreDevices s
  | some d, s => acceptRom c d s

@[simp] theorem searchAnswer_none (c : Config) (s : State) : searchAnswer c none s = .ok .noMoreDevices s := rfl
@[simp] theorem searchAnswer_some (c : Config) (d : Decoded) (s : State) : searchAnswer c (some d) s = acceptRom c d s := rfl

theorem searchNext_eq (c : Config) (s : State) : searchNext c s = (searchRead c s).bind (searchAnswer c) := by
  unfold searchNext searchRead
  split
  · rfl
  · rw [Res.bind_assoc]
    congr 1
    funext present t
    cases present with
    | false => rfl
    | true => simp only [if_true, Res.bind_assoc, Res.map, searchExchange, Res.bind_ok, searchAnswer_some]

/-- What steps 1 to 5 decode comes from a read of 17 bytes, and only an Active cursor gets there (R132). -/
theorem searchRead_ok_some {s t : State} {d : Decoded} (h : searchRead params s = .ok (some d) t) :
    s.srch.exhausted = false ∧ ∃ r : List Byte, r.length = 17 ∧ d = decodeResponse params r := by
  unfold searchRead at h
  split at h
  · cases h
  · refine ⟨by simpa using ‹¬s.srch.exhausted = true›, ?_⟩
    obtain ⟨present, t₁, -, h⟩ := Res.bind_eq_ok h
    cases present with
    | false => cases h
    | true =>
      obtain ⟨-, t₂, -, h⟩ := Res.bind_eq_ok h
      obtain ⟨-, t₃, -, h⟩ := Res.bind_eq_ok h
      obtain ⟨d', t₄, hd, h⟩ := Res.bind_eq_ok h
      cases h
      exact readSearchResponse_ok hd

/-! ### What the search sends -/

/-- Setting a bit in a steering place keeps the data bits clear (R62, R92). -/
theorem setByteBit_frame (b : Byte) (i : Nat) (v : Bool) (hb : b &&& 0xAA#8 = 0#8) :
    setByteBit b (2 * i % 8) v &&& 0xAA#8 = 0#8 := by
  have even : 2 * i % 8 = 2 * (i % 4) := by omega
  have place : ∀ j, j < 4 → 1#8 <<< (2 * j) &&& 0xAA#8 = 0#8 := by decide
  unfold setByteBit
  rw [even]
  cases v with
  | true => rw [if_pos rfl, BitVec.and_comm, BitVec.and_or_distrib_left, BitVec.and_comm _ b, hb, BitVec.and_comm,
      place _ (Nat.mod_lt _ (by omega))]; rfl
  | false => rw [if_neg (by decide), BitVec.and_assoc, BitVec.and_comm _ 0xAA#8, ← BitVec.and_assoc, hb, BitVec.zero_and]

theorem setbit_frame (F : List Byte) (i : Nat) (v : Bool) (hF : ∀ b ∈ F, b &&& 0xAA#8 = 0#8) :
    ∀ b ∈ setbit F (2 * i) v, b &&& 0xAA#8 = 0#8 := by
  intro b hb
  rcases List.mem_or_eq_of_mem_set hb with h | rfl
  · exact hF b h
  · refine setByteBit_frame _ i v ?_
    by_cases hi : 2 * i / 8 < F.length
    · rw [List.getD_eq_getElem _ _ hi]; exact hF _ (List.getElem_mem hi)
    · rw [List.getD_eq_default _ _ (by omega)]; rfl

theorem zeroBytes_frame (n : Nat) : ∀ b ∈ zeroBytes n, b &&& 0xAA#8 = 0#8 := by
  intro b hb
  rw [List.eq_of_mem_replicate hb]; rfl

theorem encodeLoop_frame (rom : List Byte) (ld n : Nat) : ∀ b ∈ encodeLoop params rom ld n, b &&& 0xAA#8 = 0#8 := by
  induction n with
  | zero => exact zeroBytes_frame _
  | succ i ih =>
    unfold encodeLoop encodeBit
    split
    · exact setbit_frame _ i _ ih
    · split
      · exact setbit_frame _ i _ ih
      · exact ih

/-- Every byte of the search frame has its data bits clear (R92 e). -/
theorem encodeFrame_frame (rom : List Byte) (ld : Nat) : ∀ b ∈ encodeFrame params rom ld, b &&& 0xAA#8 = 0#8 := by
  unfold encodeFrame
  split
  · exact zeroBytes_frame _
  · exact encodeLoop_frame rom ld _

/-- Everything steps 1 to 5 of `SEARCH_NEXT` can do. -/
theorem searchRead_runs (s : State) : Runs .normal 53 s (searchRead params s) := by
  unfold searchRead
  split
  · exact (Runs.pure .normal s _).mono (by omega)
  · refine Runs.bind (n := 22) (m := 31) (resetBus_runs s) fun present t _ => ?_
    split
    · refine Runs.bind (n := 4) (m := 27) (selectSearch_runs t) fun _ u _ => ?_
      exact Runs.bind (n := 2) (m := 25) (sendFrame_runs u (encodeFrame_frame _ _)) fun _ v _ =>
        (readSearchResponse_runs v).map some
    · exact (Runs.pure .normal t _).mono (by omega)

/-! ### What the search answers -/

/-- Steps 6 to 8 change at most the cursor: to its next value, for a decoded code that passes the three tests. -/
theorem searchAnswer_state (o : Option Decoded) (s : State) :
    (searchAnswer params o s).state = s ∨
    ∃ d, o = some d ∧ validate params d.rom d.lastZero = none ∧
      (searchAnswer params o s).state = s.setCursor (nextCursor s.srch d) := by
  cases o with
  | none => exact .inl rfl
  | some d =>
    rw [searchAnswer_some]
    rcases acceptRom_cases d s with ⟨hv, h⟩ | ⟨r, -, h⟩ <;> rw [h]
    · exact .inr ⟨d, rfl, hv, rfl⟩
    · exact .inl rfl

/-- Where a whole `SEARCH_NEXT` ends: in the end state of steps 1 to 5, with the cursor as there or moved on. -/
theorem searchNext_state (s : State) :
    (searchNext params s).state = (searchRead params s).state ∨
    ∃ r : List Byte, r.length = 17 ∧ s.srch.exhausted = false ∧
      validate params (decodeResponse params r).rom (decodeResponse params r).lastZero = none ∧
      (searchNext params s).state =
        (searchRead params s).state.setCursor (nextCursor (searchRead params s).state.srch (decodeResponse params r)) := by
  rw [searchNext_eq]
  cases h : searchRead params s with
  | stop e t => exact .inl rfl
  | ok o t =>
    rw [Res.bind_ok, Res.state_ok]
    rcases searchAnswer_state o t with e | ⟨d, rfl, hv, e⟩
    · exact .inl e
    · obtain ⟨active, r, hr, rfl⟩ := searchRead_ok_some h
      exact .inr ⟨r, hr, active, hv, e⟩

/-! ### The search and the updates it does not see -/

/-- `g` leaves the cursor alone too, so that the search cannot tell. -/
structure SearchInert (g : State → State) : Prop extends LevelInert g where
  srch : ∀ s, (g s).srch = s.srch
  setCursor : ∀ k s, (g s).setCursor k = g (s.setCursor k)

theorem setCrc_searchInert (v : Byte) : SearchInert (State.setCrc v) := ⟨setCrc_inert v, fun _ => rfl, fun _ _ => rfl⟩

section
variable {g : State → State}

theorem selectSearch_ignores (hg : SearchInert g) : Ignores g (selectSearch params) := by
  intro s
  unfold selectSearch
  rw [hg.srch]
  exact ((sendIn_ignores hg.toInert _ _).bind fun _ => sendIn_ignores hg.toInert _ _) s

theorem sendFrame_ignores (hg : SearchInert g) : Ignores g (sendFrame params) := by
  intro s
  unfold sendFrame
  rw [hg.srch]
  exact sendIn_ignores hg.toInert _ _ s

theorem readSearchResponse_ignores (hg : SearchInert g) : Ignores g (readSearchResponse params) :=
  (readFiltered_ignores hg.toInert _).bind fun _ => (sendIn_ignores hg.toInert _ _).bind fun _ =>
    (resetBus_ignores hg.toLevelInert).map _

theorem acceptRom_ignores (hg : SearchInert g) (d : Decoded) : Ignores g (acceptRom params d) := by
  intro s
  unfold acceptRom
  rw [hg.srch]
  cases validate params d.rom d.lastZero with
  | some reason => rfl
  | none => exact congrArg (Res.ok _) (hg.setCursor _ s)

theorem searchExchange_ignores (hg : SearchInert g) : Ignores g (searchExchange params) :=
  (selectSearch_ignores hg).bind fun _ => (sendFrame_ignores hg).bind fun _ =>
    (readSearchResponse_ignores hg).bind fun d => acceptRom_ignores hg d

theorem searchNext_ignores (hg : SearchInert g) : Ignores g (searchNext params) := by
  intro s
  unfold searchNext
  rw [hg.srch]
  split
  · rfl
  · refine (resetBus_ignores hg.toLevelInert).bind (fun present => ?_) s
    cases present with
    | false => exact Ignores.pure g _
    | true => exact searchExchange_ignores hg

theorem execSearchNext_ignores (hg : SearchInert g) (s : State) :
    exec .searchNext (g s) = mapNext g (exec .searchNext s) :=
  (searchNext_ignores hg).finish hg.toInert s

end

end Sys2Proof.Machine

/-! ## What a host operation leaves of the port and of `BUS` -/

namespace Sys2Proof.Machine

open Host (Outcome)

/-- The states differ at most in the CRC register, the cursor and the reply. -/
structure Agree (u t : State) : Prop where
  bus : t.bus = u.bus
  port : t.port = u.port
  requests : t.requests = u.requests
  item : t.item = u.item

theorem Agree.refl (s : State) : Agree s s := ⟨rfl, rfl, rfl, rfl⟩
theorem Agree.setReply (a : Option Reply) (s : State) : Agree s (s.setReply a) := ⟨rfl, rfl, rfl, rfl⟩
theorem Agree.setCursor (k : Srch) (s : State) : Agree s (s.setCursor k) := ⟨rfl, rfl, rfl, rfl⟩

theorem Agree.trans {s t u : State} (h : Agree s t) (k : Agree t u) : Agree s u :=
  ⟨k.bus.trans h.bus, k.port.trans h.port, k.requests.trans h.requests, k.item.trans h.item⟩

theorem finish_agrees {r : Res Reply} {t : State} (h : finish r = .next t) : Agree r.state t := by
  obtain ⟨a, rfl⟩ := finish_next h
  exact Agree.setReply a _

theorem searchNext_agrees (s : State) : Agree (searchRead params s).state (searchNext params s).state := by
  rcases searchNext_state s with e | ⟨r, -, -, -, e⟩ <;> rw [e]
  · exact Agree.refl _
  · exact Agree.setCursor _ _

/-- The only level other than the old one in which a host operation can leave `BUS.level` (R109). -/
def levelTarget : Instr → Level
  | .busLevel l => l
  | _ => .normal

/-- Every host operation that goes on has run a procedure with the properties of `Runs`, and has written no register
besides but the CRC register, the cursor and the reply. -/
theorem exec_hostOp_runs {i : Instr} {s t : State} (hi : isHostOp i = true) (h : exec i s = .next t) :
    ∃ r : Res Reply, Runs (levelTarget i) 53 s r ∧ Agree r.state t := by
  have still : Agree s t → ∃ r : Res Reply, Runs (levelTarget i) 53 s r ∧ Agree r.state t := fun ha =>
    ⟨.ok .done s, (Runs.pure _ s _).mono (by omega), ha⟩
  cases i
  case crcNew | crcCalc | searchNew => exact still (by cases h; exact ⟨rfl, rfl, rfl, rfl⟩)
  case encode | decode => exact still (finish_agrees (guarded_next h))
  case busReset => exact ⟨_, ((resetBus_runs s).map _).mono (by omega), finish_agrees h⟩
  case busDetect => exact ⟨_, ((detect_runs .normal s).map _).mono (by omega), finish_agrees h⟩
  case busLevel l => exact ⟨_, ((changeLevel_runs l s).map _).mono (by omega), finish_agrees h⟩
  case searchNext =>
    refine ⟨_, (searchRead_runs s).map fun _ => .done, ?_⟩
    rw [Res.state_map]
    exact (searchNext_agrees s).trans (finish_agrees h)
  all_goals cases hi

/-- A stop without a cut call is an `E_SYNC`. -/
theorem stopShape_sync {why : Stop} {es : List Event} (h : stopShape why es) (hc : noCuts es) : why = .raised .sync := by
  have last : ∀ es' c d why', es = es' ++ [.cut c d why'] → False := by
    rintro es' c d why' rfl
    exact absurd (hc (.cut c d why') (by simp)) (by simp [Event.isCut])
  match why, h with
  | .raised (.io _), ⟨_, _, _, e, _⟩ => exact (last _ _ _ _ e).elim
  | .abandoned, ⟨_, _, _, e, _⟩ => exact (last _ _ _ _ e).elim
  | .raised .sync, _ => rfl

/-- What `Runs` says of the end state, however the procedure ends: the trace, and, while no call is cut short, the mode
that the events imply (R13, R64). -/
theorem Runs.trace {α : Type} {l : Level} {n : Nat} {s : State} {r : Res α} (h : Runs l n s r) :
    ∃ es, Trace l s r.state es ∧ (noCuts es → r.state.bus.mode = chipModeAfter s.bus.mode es) := by
  cases r with
  | ok a t =>
    obtain ⟨es, tr, -, -, mode⟩ := h
    exact ⟨es, tr, fun _ => mode⟩
  | stop why t =>
    obtain ⟨es, tr, -, shape, mode⟩ := h
    exact ⟨es, tr, fun hc => (mode (stopShape_sync shape hc)).2⟩

/-- Settles O45: the mode clause of `Runs`, for the procedure the operation has run. -/
theorem modeBookkeepingFollowsTheBytesSent : Obligations.ModeBookkeepingFollowsTheBytesSent := by
  unfold Obligations.ModeBookkeepingFollowsTheBytesSent
  intro i s t es hi h hist hc
  obtain ⟨r, runs, same⟩ := exec_hostOp_runs hi h
  obtain ⟨es', tr, mode⟩ := runs.trace
  rw [same.port, tr.history] at hist
  obtain rfl := List.append_cancel_left hist
  rw [same.bus]
  exact mode hc

/-! ## Which instructions write which register -/

/-- Only the reset, the level change and the search write `BUS.level`. -/
theorem exec_keeps_level {i : Instr} {s t : State} (h : exec i s = .next t) (hr : i ≠ .busReset)
    (hl : ∀ l, i ≠ .busLevel l) (hn : i ≠ .searchNext) : t.bus.level = s.bus.level := by
  cases hu : usesRegisters i with
  | false =>
    have fixed := fixed_of_mapNext (exec_ignores (setLevel_inert s.bus.level) i hu s) rfl h
    rw [← fixed]; rfl
  | true =>
    cases i
    case crcNew | crcCalc | searchNew => cases h; rfl
    case busReset => exact absurd rfl hr
    case busLevel l => exact absurd rfl (hl l)
    case searchNext => exact absurd rfl hn
    all_goals cases hu

/-- Settles O42: only three operations write the level, and for these `Runs` says to what. -/
theorem levelChangesOnlyToTheTarget : Obligations.LevelChangesOnlyToTheTarget := by
  unfold Obligations.LevelChangesOnlyToTheTarget
  intro i s t h hne
  have target : isHostOp i = true → t.bus.level = levelTarget i := fun hi => by
    obtain ⟨r, runs, same⟩ := exec_hostOp_runs hi h
    obtain ⟨es, tr, -⟩ := runs.trace
    rw [same.bus] at hne ⊢
    exact tr.level.resolve_left hne
  by_cases hr : i = .busReset
  · subst hr; exact .inr ⟨target rfl, .inl rfl⟩
  by_cases hn : i = .searchNext
  · subst hn; exact .inr ⟨target rfl, .inr rfl⟩
  by_cases hl : ∃ l, i = .busLevel l
  · obtain ⟨l, rfl⟩ := hl
    exact .inl (congrArg Instr.busLevel (target rfl).symm)
  · exact absurd (exec_keeps_level h hr (fun l e => hl ⟨l, e⟩) hn) hne

/-- No instruction but the two of the CRC8 unit sees or writes `CRC.state` (R11). -/
theorem exec_ignores_crc {i : Instr} (hn : i ≠ .crcNew) (hc : ∀ b, i ≠ .crcCalc b) (v : Byte) (s : State) :
    exec i (s.setCrc v) = mapNext (State.setCrc v) (exec i s) := by
  cases hu : usesRegisters i with
  | false => exact exec_ignores (setCrc_inert v).toInert i hu s
  | true =>
    cases i
    case crcNew => exact absurd rfl hn
    case crcCalc b => exact absurd rfl (hc b)
    case busReset => exact execBusReset_ignores (setCrc_inert v) s
    case busLevel l => exact execBusLevel_ignores (setCrc_inert v) l s
    case searchNew a => rfl
    case searchNext => exact execSearchNext_ignores (setCrc_searchInert v) s
    all_goals cases hu

/-- Settles O49: `CRC_NEW` writes 0 over whatever stands there; every other instruction ignores the register. -/
theorem crcStateIsReadOnlyByCrcCalc : Obligations.CrcStateIsReadOnlyByCrcCalc := by
  unfold Obligations.CrcStateIsReadOnlyByCrcCalc
  intro i s t v hc h
  by_cases hn : i = .crcNew
  · subst hn; cases h; rfl
  · have ignored := exec_ignores_crc hn hc v s
    rw [h] at ignored
    rw [if_neg hn]
    exact ignored

/-- Only the search operations write the cursor (R145). -/
theorem exec_keeps_cursor {i : Instr} {s t : State} (h : exec i s = .next t) (hn : i ≠ .searchNext)
    (hw : ∀ a, i ≠ .searchNew a) : t.srch = s.srch := by
  have kept : exec i (s.setCursor s.srch) = mapNext (State.setCursor s.srch) (exec i s) → t.srch = s.srch := fun e => by
    rw [← fixed_of_mapNext e rfl h]; rfl
  cases hu : usesRegisters i with
  | false => exact kept (exec_ignores (setCursor_inert _).toInert i hu s)
  | true =>
    cases i
    case crcNew | crcCalc => exact kept rfl
    case busReset => exact kept (execBusReset_ignores (setCursor_inert _) s)
    case busLevel l => exact kept (execBusLevel_ignores (setCursor_inert _) l s)
    case searchNew a => exact absurd rfl (hw a)
    case searchNext => exact absurd rfl hn
    all_goals cases hu

/-! ## The cursor invariant -/

/-! ### What `DECODE` returns (R94) -/

theorem decodeLoop_lastZero_le (F : List Byte) (n : Nat) : (decodeLoop params F n).lastZero ≤ n := by
  induction n with
  | zero => exact Nat.le_refl 0
  | succ n ih =>
    simp only [decodeLoop, decodeBit]
    split <;> omega

theorem decodeLoop_family_le (F : List Byte) (n : Nat) : (decodeLoop params F n).family ≤ 8 := by
  induction n with
  | zero => exact Nat.zero_le 8
  | succ n ih =>
    simp only [decodeLoop, decodeBit]
    split
    · next h => simp only [Bool.and_eq_true, decide_eq_true_eq] at h; omega
    · exact ih

/-- The bit at the recorded position is the 0 that was taken there: later passes of the loop leave it. -/
theorem decodeLoop_bit_lastZero (F : List Byte) (n j : Nat) (hn : n ≤ 64) (hj : (decodeLoop params F n).lastZero = j + 1) :
    bit (decodeLoop params F n).rom j = false := by
  induction n with
  | zero => cases hj
  | succ n ih =>
    have written : ∀ v, bit (setbit (decodeLoop params F n).rom n v) j = if j = n then v else bit (decodeLoop params F n).rom j :=
      fun v => bit_setbit _ n j v (by rw [decodeLoop_rom_length]; omega)
    simp only [decodeLoop, decodeBit] at hj ⊢
    rw [written]
    split at hj
    · next recorded =>
      have data : dataBit F n = false := by
        simp only [isDiscrepancy, Bool.and_eq_true, Bool.not_eq_true'] at recorded
        exact recorded.2
      rw [if_pos (by omega), data]
    · have := decodeLoop_lastZero_le F n
      rw [if_neg (by omega)]
      exact ih (by omega) hj

/-- The ranges of what `DECODE` returns, and the 0 bit at the recorded position. -/
structure DecodeRanges (d : Decoded) : Prop where
  romLength : d.rom.length = 8
  lastZero : d.lastZero ≤ 64
  family : d.family ≤ 8
  bitIsZero : ∀ i, d.lastZero = i + 1 → bit d.rom i = false

theorem decodeResponse_ranges (r : List Byte) : DecodeRanges (decodeResponse params r) where
  romLength := decodeLoop_rom_length _ _
  lastZero := decodeLoop_lastZero_le _ _
  family := decodeLoop_family_le _ _
  bitIsZero i := decodeLoop_bit_lastZero _ _ i (Nat.le_refl 64)

/-! ### The cursors that are written -/

theorem crcFold_zeroBytes (n : Nat) : crcFold params (zeroBytes n) = 0 := by
  have next : crcNext params 0 0 = 0 := by decide
  unfold crcFold zeroBytes
  induction n with
  | zero => rfl
  | succ n ih => rw [List.replicate_succ, List.foldl_cons, next, ih]

/-- A cursor of zeros meets the invariant, exhausted or not (R20, R86 e). -/
theorem zeroCursor_inv (alarmOnly exhausted : Bool) :
    CursorInv { alarmOnly, rom := zeroBytes 8, lastDiscrepancy := 0, lastFamilyDiscrepancy := 0, exhausted } where
  romLength := rfl
  exhaustedMeansNone _ := rfl
  discrepancyRange := Nat.zero_le 64
  discrepancyNotFail := show 0 ≠ 63 by decide
  familyRange := Nat.zero_le 8
  crcValid := crcFold_zeroBytes 8
  familyByte := .inl rfl
  branchBitIsZero := fun i h => by cases h

/-- The cursor that a successful search step writes meets the invariant (R134). -/
theorem nextCursor_inv {k : Srch} {d : Decoded} (hk : CursorInv k) (active : k.exhausted = false) (hd : DecodeRanges d)
    (hv : validate params d.rom d.lastZero = none) : CursorInv (nextCursor k d) := by
  obtain ⟨crc, notFail, family⟩ := validate_none hv
  exact {
    romLength := hd.romLength
    exhaustedMeansNone := fun h => by
      by_contra hz
      have kept : (nextCursor k d).exhausted = k.exhausted := if_neg hz
      rw [kept, active] at h
      cases h
    discrepancyRange := hd.lastZero
    discrepancyNotFail := notFail
    familyRange := by
      show (if _ then _ else _) ≤ 8
      split
      · exact hd.family
      · exact hk.familyRange
    crcValid := crc
    familyByte := .inr family
    branchBitIsZero := hd.bitIsZero }

/-! ### One step -/

theorem searchNext_keeps_inv {s : State} (hs : CursorInv s.srch) : CursorInv (searchNext params s).state.srch := by
  obtain ⟨es, tr, -⟩ := (searchRead_runs s).trace
  have before := tr.srch
  rcases searchNext_state s with e | ⟨r, -, active, hv, e⟩ <;> rw [e]
  · rw [before]; exact hs
  · rw [State.setCursor_srch, before]; exact nextCursor_inv hs active (decodeResponse_ranges r) hv

theorem exec_keeps_inv {i : Instr} {s t : State} (hs : Inv s) (h : exec i s = .next t) : Inv t := by
  by_cases hn : i = .searchNext
  · subst hn
    obtain ⟨a, rfl⟩ := finish_next h
    exact searchNext_keeps_inv hs
  by_cases hw : ∃ a, i = .searchNew a
  · obtain ⟨a, rfl⟩ := hw
    cases h
    exact zeroCursor_inv a false
  · have kept := exec_keeps_cursor h hn fun a e => hw ⟨a, e⟩
    unfold Inv
    rw [kept]
    exact hs

theorem perform_ok {r : Request} {i : Instr} (h : decode r = .ok i) (s : State) : perform r s = exec i s := by
  rw [perform, h]

theorem perform_error {r : Request} {why : Reject} (h : decode r = .error why) (s : State) :
    perform r s = .refused (.undecodable why) := by
  rw [perform, h]

theorem perform_next {r : Request} {s t : State} (h : perform r s = .next t) :
    ∃ i, decode r = .ok i ∧ exec i s = .next t := by
  cases hd : decode r with
  | error why => rw [perform_error hd] at h; cases h
  | ok i => exact ⟨i, rfl, perform_ok hd s ▸ h⟩

theorem step_item {s : State} {r : Request} (h : s.item = some r) : step s = perform r { s with item := none } := by
  rw [step, h]

theorem step_request {s : State} {bs : List Byte} {rest : List (List Byte)} (hi : s.item = none)
    (hr : s.requests = bs :: rest) : step s = perform ⟨.hostop, bs⟩ { s with requests := rest } := by
  rw [step, hi, hr]

theorem step_idle {s : State} (hi : s.item = none) (hr : s.requests = []) : step s = .next s := by
  rw [step, hi, hr]

/-- Everything a step that goes on has done: nothing, the host's oldest operation, or the item. -/
theorem step_next {s t : State} (h : step s = .next t) :
    (s.item = none ∧ s.requests = [] ∧ t = s) ∨
    (∃ bs rest i, s.item = none ∧ s.requests = bs :: rest ∧ decode ⟨.hostop, bs⟩ = .ok i ∧
      exec i { s with requests := rest } = .next t) ∨
    (∃ r i, s.item = some r ∧ decode r = .ok i ∧ exec i { s with item := none } = .next t) := by
  rcases Option.eq_none_or_eq_some s.item with hi | ⟨r, hi⟩
  · cases hr : s.requests with
    | nil => exact .inl ⟨hi, rfl, (Outcome.next.inj (step_idle hi hr ▸ h)).symm⟩
    | cons bs rest =>
      obtain ⟨i, hd, hx⟩ := perform_next (step_request hi hr ▸ h)
      exact .inr (.inl ⟨bs, rest, i, hi, rfl, hd, hx⟩)
  · obtain ⟨i, hd, hx⟩ := perform_next (step_item hi ▸ h)
    exact .inr (.inr ⟨r, i, hi, hd, hx⟩)

/-- Settles O50: taking a request or the item leaves the cursor, and every instruction keeps its invariant. -/
theorem stepKeepsTheCursorInvariant : Obligations.StepKeepsTheCursorInvariant := by
  unfold Obligations.StepKeepsTheCursorInvariant
  intro s t hs h
  rcases step_next h with ⟨-, -, rfl⟩ | ⟨bs, rest, i, -, -, -, hx⟩ | ⟨r, i, -, -, hx⟩
  · exact hs
  · exact exec_keeps_inv (s := { s with requests := rest }) hs hx
  · exact exec_keeps_inv (s := { s with item := none }) hs hx

/-! ## What the host can make the block do -/

theorem nullary_ok {i j : Instr} {rest : List Byte} (h : nullary i rest = .ok j) : j = i := by
  unfold nullary at h
  split at h
  · exact (Except.ok.inj h).symm
  · cases h

theorem decodeEncode_ok {rest : List Byte} {i : Instr} (h : decodeEncode rest = .ok i) : ∃ rom ld, i = .encode rom ld := by
  unfold decodeEncode at h
  split at h
  · cases h
  · split at h
    · cases h
    · cases h; exact ⟨_, _, rfl⟩

theorem exceptMap_ok {α : Type} {f : α → Instr} {e : Except Reject α} {i : Instr} (h : e.map f = .ok i) : ∃ a, i = f a := by
  cases e with
  | error why => cases h
  | ok a => exact ⟨a, (Except.ok.inj h).symm⟩

/-- A request in format HOSTOP is one of the nine operations or a reserved code (R69). -/
theorem decodeHostop_ok {bs : List Byte} {i : Instr} (h : decodeHostop bs = .ok i) :
    isHostOp i = true ∨ ∃ code, ∀ s, exec i s = .refused (.reservedOpsel code) := by
  unfold decodeHostop at h
  split at h
  · cases h
  · split at h
    case h_1 | h_5 | h_6 | h_9 => rw [nullary_ok h]; exact .inl rfl
    case h_10 | h_11 | h_12 | h_13 | h_14 | h_15 | h_16 => rw [nullary_ok h]; exact .inr ⟨_, fun _ => rfl⟩
    case h_2 | h_4 =>
      split at h
      · cases h; exact .inl rfl
      · cases h
    case h_3 => obtain ⟨rom, ld, rfl⟩ := decodeEncode_ok h; exact .inl rfl
    case h_7 | h_8 =>
      split at h
      · obtain ⟨a, rfl⟩ := exceptMap_ok h; exact .inl rfl
      · cases h
    case h_17 => cases h

/-- Settles O56: the cases of a step; the decoder's two kinds of HOSTOP requests decide the last clause. -/
theorem stepIdlesOrRefuses : Obligations.StepIdlesOrRefuses := by
  unfold Obligations.StepIdlesOrRefuses
  refine ⟨fun s hi hr => step_idle hi hr, fun s bs rest why hi hr hd => ?_, fun s r why hi hd => ?_, fun s bs => ⟨rfl, rfl⟩,
    fun s t hi h => ?_⟩
  · rw [step_request hi hr, perform_error hd]
  · rw [step_item hi, perform_error hd]
  · rcases step_next h with ⟨-, -, rfl⟩ | ⟨bs, rest, i, -, hr, hd, hx⟩ | ⟨r, i, hsome, -, -⟩
    · exact ⟨hi, .inl rfl⟩
    · have host : isHostOp i = true := (decodeHostop_ok hd).resolve_right fun ⟨code, refused⟩ => by
        rw [refused] at hx; cases hx
      obtain ⟨r, runs, same⟩ := exec_hostOp_runs host hx
      obtain ⟨es, tr, -⟩ := runs.trace
      exact ⟨same.item.trans (tr.item.trans hi), .inr ⟨i, bs, rest, hr, hd, host, hx⟩⟩
    · rw [hi] at hsome; cases hsome

/-! ## Power-on -/

/-- Settles O51: the power-on cursor is one of zeros. -/
theorem powerOnMeetsTheInvariant : Obligations.PowerOnMeetsTheInvariant := zeroCursor_inv false true

/-- Settles O52: each register of `State.reset`, read off. -/
theorem powerOnRegisters : Obligations.PowerOnRegisters := by
  unfold Obligations.PowerOnRegisters
  exact ⟨rfl, rfl, rfl, rfl, rfl, rfl, rfl, rfl, rfl, rfl⟩

end Sys2Proof.Machine

/-! ## The frame, one call of the transport, and one step -/

namespace Sys2Proof.Machine

/-! ### The search frame -/

/-- Bits 1, 5 and 7 of the switch byte 0xE3 are data bits of a frame byte, and set (R47). -/
theorem ne_switchByte_of_frame {b : Byte} (h : b &&& 0xAA#8 = 0#8) : b ≠ 0xE3#8 := by
  rintro rfl
  exact absurd h (by decide)

/-- Settles O8: the loop of `ENCODE` keeps the data bits clear, and 0xE3 has some of them set. -/
theorem frameBytesAreNeverASwitchByte : Obligations.FrameBytesAreNeverASwitchByte := by
  unfold Obligations.FrameBytesAreNeverASwitchByte
  intro rom ld b hb
  have clear : b &&& 0xAA#8 = 0#8 := encodeFrame_frame rom ld b hb
  exact ⟨clear, ne_switchByte_of_frame clear⟩

/-! ### One call of the transport -/

/-- A call that can fail and meets a failure raises `E_IO`, and only the port changes (R35). -/
theorem transport_of_fail {c : Call} {s : State} {k : IoKind} {d : Nat} (hc : c.canFail = true)
    (h : s.port.verdictAt 0 = .fail k d) :
    transport c s = .stop (.raised (.io k)) (s.setPort (s.port.cut c d (.raised (.io k)))) := by
  simp [transport, Port.verdictFor, h, hc]

/-- What a write that was cut short has sent: its first bytes, at most all of them (R31, U7). -/
theorem sent_cut_write (B : List Byte) (d : Nat) (why : Stop) :
    (Event.cut (.write B) (min d (cutLimit (.write B) why)) why).sent = B.take d := by
  rw [sent_cut]
  exact List.take_eq_take_min.symm

/-- A write that was cut short removes nothing from the receive direction. -/
theorem Port.byteAt_cut_write (p : Port) (B : List Byte) (d : Nat) (why : Stop) (j : Nat) :
    (p.cut (.write B) d why).byteAt j = p.byteAt j :=
  Port.byteAt_record p _ j

/-- A read that was cut short has removed the oldest bytes, as many as took effect (R32, U6). -/
theorem Port.byteAt_cut_read (p : Port) (n d : Nat) (why : Stop) (j : Nat) :
    (p.cut (.read n) d why).byteAt j = p.byteAt (min d (cutLimit (.read n) why) + j) :=
  Port.byteAt_dropRx _ _ j

/-- A read that succeeded has removed the bytes it delivered (R32). -/
theorem Port.byteAt_complete_read (p : Port) (n j : Nat) : (p.complete (.read n)).byteAt j = p.byteAt (n + j) :=
  Port.byteAt_dropRx p n j

/-- Settles O12: a call that succeeds completes, one that fails is cut; the two streams of the port say the rest. -/
theorem transportReadsAndWritesInOrder : Obligations.TransportReadsAndWritesInOrder := by
  unfold Obligations.TransportReadsAndWritesInOrder
  refine ⟨fun B s h => ?_, fun B s k d h => ?_, fun n s h => ?_, fun n s k d h _ => ?_⟩
  · exact ⟨_, transport_of_grants (.write B) s h, rfl, Port.byteAt_record s.port (.write B)⟩
  · exact ⟨_, _, transport_of_fail rfl h, (Port.cut_history ..).1, sent_cut_write .., s.port.byteAt_cut_write B d _⟩
  · exact ⟨_, transport_of_grants (.read n) s h, s.port.byteAt_complete_read n⟩
  · exact ⟨_, _, transport_of_fail rfl h, Nat.min_le_right d (n - 1), s.port.byteAt_cut_read n d _⟩

/-! ### One step -/

/-- Settles O55: a step performs the oldest request or the item, and what decodes is executed. -/
theorem stepRunsTheDecodedInstruction : Obligations.StepRunsTheDecodedInstruction := by
  unfold Obligations.StepRunsTheDecodedInstruction
  refine ⟨fun s bs rest i hi hr hd => ?_, fun s r i hi hd => ?_⟩
  · rw [step_request hi hr, perform_ok hd]
  · rw [step_item hi, perform_ok hd]

end Sys2Proof.Machine

/-! ## The bytes a host operation sends, and the rows of one item -/

namespace Sys2Proof.Machine

/-! ### The history of a host operation -/

/-- Settles O44: the byte clause of `Trace`, for the procedure the operation has run. -/
theorem onlyListedBytesAreSent : Obligations.OnlyListedBytesAreSent := by
  unfold Obligations.OnlyListedBytesAreSent
  intro i s t es hi h hist
  obtain ⟨r, runs, same⟩ := exec_hostOp_runs hi h
  obtain ⟨es', tr, -⟩ := runs.trace
  rw [same.port, tr.history] at hist
  obtain rfl := List.append_cancel_left hist
  exact tr.listed

/-! ### Refusals -/

theorem guarded_of_wellFormed {i : Instr} (h : i.wellFormed = true) (r : Host.Outcome State Fault Refusal) :
    guarded i r = r :=
  if_pos h

theorem guarded_of_illFormed {i : Instr} (h : i.wellFormed = false) (r : Host.Outcome State Fault Refusal) :
    guarded i r = .refused .operandOutOfRange :=
  if_neg (by simp [h])

/-- Settles O40: the instructions whose operands have a range are guarded; the others are always well formed. -/
theorem illFormedOperandsAreRefused : Obligations.IllFormedOperandsAreRefused := by
  unfold Obligations.IllFormedOperandsAreRefused
  intro i s h
  cases i
  case encode | decode | frameByte | commFormat | configFormat | resp5 | resp17 | romCode => exact guarded_of_illFormed h _
  all_goals cases h

/-- Settles O39: the seven arms of the reserved codes. -/
theorem reservedCodesAreRefused : Obligations.ReservedCodesAreRefused :=
  fun _ => ⟨rfl, rfl, rfl, rfl, rfl, rfl, rfl⟩

/-! ### The rows of bytes sent -/

/-- One byte sent when its calls succeed: the mode switch if it is needed, then one write. -/
theorem sendByte_served (m : Mode) (b : Byte) (s : State) (h : s.port.grants ((modeSwitchCalls s.bus.mode m).length + 1)) :
    sendByte m b s =
      .next { s.afterCalls (modeSwitchCalls s.bus.mode m ++ [.write [b]]) { s.bus with mode := m } with
        reply := some .done } := by
  have sent := sendIn_served s [] s.bus m [b] (by simpa using h)
  rw [State.afterCalls_nil, List.nil_append] at sent
  rw [sendByte, sent]
  rfl

/-- A row of R59 with a fixed byte sends that byte in its chip mode. -/
theorem exec_of_fixedByteRow {i : Instr} {m : Mode} {b : Byte} (h : fixedByteRow i = some (m, b)) (s : State) :
    exec i s = sendByte m b s := by
  cases i
  case cmdBusReset | cmdReset | cfgSlew | cfgWrite1Low | cfgSampleOffset | probeBaudRead | probeBitTest | cmdPulseTerminate |
      cmdChmodPulse | cfgPulse5VInfinite | cmdSearchRom | cmdSearchAlarm | cmdSearchAccelOn | cmdSearchAccelOff =>
    cases h; rfl
  all_goals cases h

/-- Settles O17: every row of the table of fixed bytes is one `sendByte`. -/
theorem fixedBytesAreSentInTheirMode : Obligations.FixedBytesAreSentInTheirMode := by
  unfold Obligations.FixedBytesAreSentInTheirMode
  intro i m b s row served
  rw [exec_of_fixedByteRow row, sendByte_served m b s served]

theorem functionBits_eq (f : FunctionSelect) : functionBits f = f.value params := by cases f <;> rfl

theorem speedBits_eq (sp : SpeedSelect) : speedBits sp = sp.value params := by cases sp <;> rfl

/-- The COMM byte with R52's and R53's values written out. -/
theorem commByte_params (f : FunctionSelect) (sp : SpeedSelect) :
    commByte params f sp = 0x81#8 ||| functionBits f ||| speedBits sp := by
  rw [functionBits_eq, speedBits_eq]; rfl

/-- The three parts of a CONFIG byte have no bit in common, so that they add up. -/
theorem configByte_params (p : ParameterSelect) (v : BitVec 3) :
    configByte params p v = BitVec.ofNat 8 (1 + (parameterBits p).toNat + 2 * v.toNat) := by
  cases p <;> revert v <;> decide

/-- Settles O18: the three rows are one `sendByte` each; the two composed bytes are those of R52 and R56. -/
theorem formatBytesAreComposedAndSent : Obligations.FormatBytesAreComposedAndSent := by
  unfold Obligations.FormatBytesAreComposedAndSent
  refine ⟨fun b s hb served => ?_, fun f sp s hw served => ?_, fun p v s hw served => ?_⟩
  · have hw : (Instr.frameByte b).wellFormed = true := beq_iff_eq.2 hb
    exact (guarded_of_wellFormed hw _).trans (sendByte_served .data b s served)
  · rw [← commByte_params]
    exact (guarded_of_wellFormed hw _).trans (sendByte_served .command _ s served)
  · rw [← configByte_params]
    exact (guarded_of_wellFormed hw _).trans (sendByte_served .command _ s served)

/-! ### The rows of items received -/

/-- Settles O15: no byte satisfies the literal of C1. -/
theorem defaultNotifyIsNeverTrue : Obligations.DefaultNotifyIsNeverTrue := params_notify

/-- The masks of R108: all of byte 3, and byte 4 but its two lowest bits. -/
theorem accept_params (r : List Byte) : accept params r = detectAccepts r := by
  have whole : r.getD 3 0 &&& 0xFF#8 = r.getD 3 0 := BitVec.and_allOnes
  show (r.getD 3 0 &&& 0xFF#8 == 0#8 && r.getD 4 0 &&& 0xFC#8 == 0x90#8) = detectAccepts r
  rw [whole, detectAccepts, Bool.decide_and]
  rfl

theorem acceptNormal_params (c0 c1 : Byte) :
    acceptNormal params [c0, c1] = decide (c0 &&& 0xE0#8 = 0xE0#8 ∧ c1 &&& 0xE0#8 = 0xE0#8) := by
  rw [Bool.decide_and]
  rfl

theorem acceptPulse_params (c0 : Byte) : acceptPulse params [c0] = decide (c0 &&& 0x81#8 = 0#8) := rfl

/-- Settles O21: the filter leaves the item as it is, and each test is that of its mask. -/
theorem responsesAreAcceptedByTheirMasks : Obligations.ResponsesAreAcceptedByTheirMasks := by
  unfold Obligations.ResponsesAreAcceptedByTheirMasks
  refine ⟨fun r s hr => ?_, fun c0 c1 s => ?_, fun c0 s => ?_⟩
  · have hw : (Instr.resp5 r).wellFormed = true := beq_iff_eq.2 hr
    refine (guarded_of_wellFormed hw _).trans ?_
    rw [filterResponse_quiet, ← accept_params]
    rfl
  · show execConfirmNormal c0 c1 s = _
    rw [execConfirmNormal, filterResponse_quiet, ← acceptNormal_params]
    rfl
  · show execConfirmPulse c0 s = _
    rw [execConfirmPulse, filterResponse_quiet, ← acceptPulse_params]
    rfl

/-- Settles O22: under the default predicate the filter does nothing, so RESP17 is `DECODE`. -/
theorem searchResponseAndNotificationOutcome : Obligations.SearchResponseAndNotificationOutcome := by
  unfold Obligations.SearchResponseAndNotificationOutcome
  refine ⟨fun r s hr => ⟨s.setReply (some (decodeResponse params r).reply), ?_, ?_⟩, fun b s => ?_⟩
  · have hw : (Instr.resp17 r).wellFormed = true := beq_iff_eq.2 hr
    refine (guarded_of_wellFormed hw _).trans ?_
    rw [filterResponse_quiet]
    rfl
  · have hw : (Instr.decode r).wellFormed = true := beq_iff_eq.2 hr
    exact guarded_of_wellFormed hw _
  · show execNotification b s = _
    rw [execNotification, filterLoop_quiet, ite_self]
    rfl

/-- The tests of R133 on a bare ROM code: position 0 never equals `DISCREPANCY_FAIL`, which leaves CRC and family. -/
theorem validate_bareRom (rom : List Byte) :
    validate params rom 0 =
      if crcFold params rom ≠ 0 then some .crc else if rom.getD 0 0 = 0 then some .family else none := by
  have notFail : ¬ (0 = params.discrepancyFail) := by decide
  rw [validate, if_neg notFail]

/-- Settles O23: the code passes both tests, or the first failing one is the reason of the error. -/
theorem romCodeIsDeliveredWhenValid : Obligations.RomCodeIsDeliveredWhenValid := by
  unfold Obligations.RomCodeIsDeliveredWhenValid
  intro rom s hr
  have hw : (Instr.romCode rom).wellFormed = true := beq_iff_eq.2 hr
  refine (guarded_of_wellFormed hw _).trans ?_
  rw [validate_bareRom]
  by_cases crc : crcFold params rom ≠ 0
  · rw [if_pos crc, if_pos crc]; rfl
  · rw [if_neg crc, if_neg crc]
    by_cases family : rom.getD 0 0 = 0
    · rw [if_pos family, if_pos family]; rfl
    · rw [if_neg family, if_neg family]; rfl

end Sys2Proof.Machine

/-! ## The encoding of requests -/

namespace Sys2Proof

open Sys2Proof.Machine

/-! ### COMM bytes (R52) -/

/-- The COMM bytes that the decoder does not read by their fields: the rows of their own, and `CMD_MODE_DATA` (R51, R59). -/
def commOwnBytes : List Byte :=
  [cmdBusReset params, params.probeBitTest, params.cmdChmodPulse, params.cmdSearchAccelOn, params.cmdSearchAccelOff,
    params.cmdModeData]

theorem decodeComm_of_not_own {b : Byte} (h : b ∉ commOwnBytes) : decodeComm b = decodeCommFields b := by
  simp only [commOwnBytes, List.mem_cons, List.not_mem_nil, or_false, not_or] at h
  obtain ⟨busReset, bitTest, chmod, accelOn, accelOff, modeData⟩ := h
  rw [decodeComm, if_neg busReset, if_neg bitTest, if_neg chmod, if_neg accelOn, if_neg accelOff, if_neg modeData]

/-- A composition has a row of its own exactly when its byte is read as one: 0x91 is no composition, its function field is not
named (R53). -/
theorem commByte_mem_own (f : FunctionSelect) (sp : SpeedSelect) :
    commByte params f sp ∈ commOwnBytes ↔ commHasOwnRow f sp = true := by
  cases f <;> cases sp <;> decide

theorem FunctionSelect.ofField_value (f : FunctionSelect) : FunctionSelect.ofField (f.value params) = .ok f := by
  cases f <;> rfl

theorem SpeedSelect.ofField_value (sp : SpeedSelect) : SpeedSelect.ofField (sp.value params) = sp := by
  cases sp <;> rfl

/-- The three fields of a composed COMM byte do not overlap. -/
theorem commByte_fields (f : FunctionSelect) (sp : SpeedSelect) :
    commByte params f sp &&& 0x83#8 = params.comm ∧ commByte params f sp &&& 0x70#8 = f.value params ∧
      commByte params f sp &&& 0x0C#8 = sp.value params := by
  cases f <;> cases sp <;> decide

theorem decodeCommFields_commByte (f : FunctionSelect) (sp : SpeedSelect) :
    decodeCommFields (commByte params f sp) = .ok (.commFormat f sp) := by
  obtain ⟨fixed, function, speed⟩ := commByte_fields f sp
  rw [decodeCommFields, if_pos fixed, function, speed, FunctionSelect.ofField_value, SpeedSelect.ofField_value]
  rfl

theorem decodeComm_commByte {f : FunctionSelect} {sp : SpeedSelect} (h : commHasOwnRow f sp = false) :
    decodeComm (commByte params f sp) = .ok (.commFormat f sp) := by
  have notOwn : commByte params f sp ∉ commOwnBytes := fun own => by
    rw [(commByte_mem_own f sp).1 own] at h; cases h
  rw [decodeComm_of_not_own notOwn, decodeCommFields_commByte]

/-! ### CONFIG bytes (R56) -/

/-- The CONFIG bytes with a row of their own (R59). -/
def configOwnBytes : List Byte :=
  [cfgSlew params, cfgWrite1Low params, cfgSampleOffset params, params.probeBaudRead, cfgPulse5VInfinite params]

theorem decodeConfig_of_not_own {b : Byte} (h : b ∉ configOwnBytes) : decodeConfig b = decodeConfigFields b := by
  simp only [configOwnBytes, List.mem_cons, List.not_mem_nil, or_false, not_or] at h
  obtain ⟨slew, write1Low, sampleOffset, baudRead, pulse5V⟩ := h
  rw [decodeConfig, if_neg slew, if_neg write1Low, if_neg sampleOffset, if_neg baudRead, if_neg pulse5V]

theorem configByte_mem_own (p : ParameterSelect) (v : BitVec 3) :
    configByte params p v ∈ configOwnBytes ↔ configHasOwnRow p v = true := by
  cases p <;> revert v <;> decide

theorem ParameterSelect.ofField_value (p : ParameterSelect) : ParameterSelect.ofField (p.value params) = p := by
  cases p <;> rfl

/-- The three fields of a composed CONFIG byte do not overlap. -/
theorem configByte_fields (p : ParameterSelect) (v : BitVec 3) :
    configByte params p v &&& 0x81#8 = params.config ∧ configByte params p v &&& 0x70#8 = p.value params ∧
      (configByte params p v).extractLsb' 1 3 = v := by
  cases p <;> revert v <;> decide

theorem decodeConfigFields_configByte (p : ParameterSelect) (v : BitVec 3) :
    decodeConfigFields (configByte params p v) = .ok (.configFormat p v) := by
  obtain ⟨fixed, parameter, value⟩ := configByte_fields p v
  rw [decodeConfigFields, if_pos fixed, parameter, value, ParameterSelect.ofField_value]

theorem decodeConfig_configByte {p : ParameterSelect} {v : BitVec 3} (h : configHasOwnRow p v = false) :
    decodeConfig (configByte params p v) = .ok (.configFormat p v) := by
  have notOwn : configByte params p v ∉ configOwnBytes := fun own => by
    rw [(configByte_mem_own p v).1 own] at h; cases h
  rw [decodeConfig_of_not_own notOwn, decodeConfigFields_configByte]

/-! ### Byte lists and operands -/

theorem nBytes_of_length {n : Nat} {bs : List Byte} (f : List Byte → Instr) (h : bs.length = n) :
    nBytes n f bs = .ok (f bs) :=
  if_pos (beq_iff_eq.2 h)

/-- The operands of `ENCODE`: the ROM bytes, then the position in one byte (R69). -/
theorem decodeEncode_append {rom : List Byte} {ld : Nat} (hr : rom.length = 8) (hld : ld ≤ 64) :
    decodeEncode (rom ++ [BitVec.ofNat 8 ld]) = .ok (.encode rom ld) := by
  have position : ((rom ++ [BitVec.ofNat 8 ld]).getD 8 0).toNat = ld := by
    rw [List.getD_append_right _ _ _ _ (by omega), hr]
    exact Nat.mod_eq_of_lt (by omega)
  have code : (rom ++ [BitVec.ofNat 8 ld]).take 8 = rom := List.take_left' hr
  have complete : ¬ ((rom ++ [BitVec.ofNat 8 ld]).length != 8 + 1) = true := by simp [hr]
  rw [decodeEncode, params_romLength, position, code, if_neg complete, if_neg (by omega)]

theorem Level.ofByte_code (l : Level) : Level.ofByte (l.code.setWidth 8) = .ok l := by cases l <;> rfl

theorem boolOfByte_boolByte (a : Bool) : boolOfByte (boolByte a) = .ok a := by cases a <;> rfl

/-! ### Decoding what was encoded -/

/-- Settles O58: an item without operands, or with one-byte operands of any value, is decoded by evaluation; each of the others
by the lemma of its form. -/
theorem decodeOfEncode : Obligations.DecodeOfEncode := by
  unfold Obligations.DecodeOfEncode
  intro i h
  cases i
  case encode rom ld =>
    simp only [Instr.wellFormed, Bool.and_eq_true, beq_iff_eq, decide_eq_true_eq] at h
    obtain ⟨complete, inRange⟩ := h
    exact decodeEncode_append complete inRange
  case decode r => exact if_pos h
  case busLevel l => exact congrArg (Except.map Instr.busLevel) (Level.ofByte_code l)
  case searchNew a => exact congrArg (Except.map Instr.searchNew) (boolOfByte_boolByte a)
  case frameByte b => exact if_pos h
  case commFormat f sp => exact decodeComm_commByte ((Bool.not_eq_true' _).mp h)
  case configFormat p v => exact decodeConfig_configByte ((Bool.not_eq_true' _).mp h)
  case resp5 r => exact nBytes_of_length _ (beq_iff_eq.1 h)
  case resp17 r => exact nBytes_of_length _ (beq_iff_eq.1 h)
  case romCode rom => exact nBytes_of_length _ (beq_iff_eq.1 h)
  all_goals rfl

/-- Settles O60: each word is one evaluation of the decoder. -/
theorem wordsOfTheSpecDecode : Obligations.WordsOfTheSpecDecode :=
  ⟨rfl, rfl, rfl, rfl, rfl, rfl, rfl, rfl, rfl, rfl, rfl⟩

/-! ### What the decoder accepts -/

/-- What a decoder accepts is well formed and, outside COMM, encoded as the request. -/
def Sound (r : Request) (e : Except Reject Instr) : Prop :=
  ∀ i, e = .ok i → i.wellFormed = true ∧ (r.format ≠ .comm → encode i = r)

namespace Sound

variable {r : Request}

theorem error (why : Reject) : Sound r (.error why) := fun _ h => by cases h

theorem ok {i : Instr} (wf : i.wellFormed = true) (enc : r.format ≠ .comm → encode i = r) : Sound r (.ok i) := by
  rintro _ ⟨⟩
  exact ⟨wf, enc⟩

theorem ite {c : Prop} [Decidable c] {a b : Except Reject Instr} (ha : c → Sound r a) (hb : ¬c → Sound r b) :
    Sound r (if c then a else b) := by
  split
  · exact ha ‹c›
  · exact hb ‹¬c›

theorem map {α : Type} {f : α → Instr} {e : Except Reject α} (h : ∀ a, e = .ok a → Sound r (.ok (f a))) :
    Sound r (e.map f) := by
  cases e with
  | error why => exact error why
  | ok a => exact h a rfl

/-- A row with a fixed byte `c`, tested before the rows after it. -/
theorem row {fmt : Format} {b c : Byte} {i : Instr} {others : Except Reject Instr} (wf : i.wellFormed = true)
    (enc : fmt ≠ .comm → encode i = ⟨fmt, [c]⟩) (h : b ≠ c → Sound ⟨fmt, [b]⟩ others) :
    Sound ⟨fmt, [b]⟩ (if b = c then .ok i else others) :=
  ite (by rintro rfl; exact ok wf enc) h

theorem oneByte {fmt : Format} {f : Byte → Except Reject Instr} (h : ∀ b, Sound ⟨fmt, [b]⟩ (f b)) (bs : List Byte) :
    Sound ⟨fmt, bs⟩ (oneByte f bs) := by
  unfold Sys2Proof.oneByte
  split
  · exact h _
  · exact error _

theorem nBytes {fmt : Format} {n : Nat} {f : List Byte → Instr} (wf : ∀ bs, bs.length = n → (f bs).wellFormed = true)
    (enc : ∀ bs, encode (f bs) = ⟨fmt, bs⟩) (bs : List Byte) : Sound ⟨fmt, bs⟩ (nBytes n f bs) :=
  ite (fun len => ok (wf bs (beq_iff_eq.1 len)) fun _ => enc bs) fun _ => error _

end Sound

/-! #### The formats of the bytes sent -/

theorem decodeFixed_sound (b : Byte) : Sound ⟨.fixed, [b]⟩ (decodeFixed b) :=
  .row rfl (fun _ => rfl) fun _ => .row rfl (fun _ => rfl) fun _ => .row rfl (fun _ => rfl) fun _ =>
  .row rfl (fun _ => rfl) fun _ => .row rfl (fun _ => rfl) fun _ => .row rfl (fun _ => rfl) fun _ => .error _

theorem FunctionSelect.value_of_ofField {v : Byte} {f : FunctionSelect} (h : FunctionSelect.ofField v = .ok f) :
    f.value params = v := by
  unfold FunctionSelect.ofField at h
  repeat' split at h
  all_goals cases h
  all_goals exact Eq.symm ‹v = _›

theorem SpeedSelect.value_ofField (b : Byte) : (SpeedSelect.ofField (b &&& 0x0C#8)).value params = b &&& 0x0C#8 := by
  revert b; decide

/-- The masks of the three fields of a COMM byte cover all its bits. -/
theorem commByte_of_fields {b : Byte} {f : FunctionSelect} {sp : SpeedSelect} (fixed : b &&& 0x83#8 = params.comm)
    (function : f.value params = b &&& 0x70#8) (speed : sp.value params = b &&& 0x0C#8) : commByte params f sp = b := by
  have cover : ∀ b : Byte, (b &&& 0x83#8) ||| (b &&& 0x70#8) ||| (b &&& 0x0C#8) = b := by decide
  rw [commByte, ← fixed, function, speed, cover]

theorem decodeCommFields_sound {b : Byte} (notOwn : b ∉ commOwnBytes) : Sound ⟨.comm, [b]⟩ (decodeCommFields b) := by
  refine .ite (fun fixed => .map fun f function => .ok ?_ fun ne => absurd rfl ne) fun _ => .error _
  rw [← commByte_of_fields fixed (FunctionSelect.value_of_ofField function) (SpeedSelect.value_ofField b),
    commByte_mem_own] at notOwn
  simpa [Instr.wellFormed] using notOwn

theorem decodeComm_sound (b : Byte) : Sound ⟨.comm, [b]⟩ (decodeComm b) :=
  have row {c : Byte} {i : Instr} {others : Except Reject Instr} (wf : i.wellFormed = true)
      (h : b ≠ c → Sound ⟨.comm, [b]⟩ others) : Sound ⟨.comm, [b]⟩ (if b = c then .ok i else others) :=
    .row wf (absurd rfl) h
  row rfl fun busReset => row rfl fun bitTest => row rfl fun chmod => row rfl fun accelOn => row rfl fun accelOff =>
  .ite (fun _ => .error _) fun modeData =>
  decodeCommFields_sound (by simp [commOwnBytes, busReset, bitTest, chmod, accelOn, accelOff, modeData])

theorem ParameterSelect.value_ofField (b : Byte) :
    (ParameterSelect.ofField (b &&& 0x70#8)).value params = b &&& 0x70#8 := by
  revert b; decide

/-- The masks of the three fields of a CONFIG byte cover all its bits. -/
theorem configByte_of_fields {b : Byte} (fixed : b &&& 0x81#8 = params.config) :
    configByte params (ParameterSelect.ofField (b &&& 0x70#8)) (b.extractLsb' 1 3) = b := by
  have cover : ∀ b : Byte, (b &&& 0x81#8) ||| (b &&& 0x70#8) ||| ((b.extractLsb' 1 3).setWidth 8 <<< 1) = b := by decide
  rw [configByte, ← fixed, ParameterSelect.value_ofField, cover]

theorem decodeConfigFields_sound {b : Byte} (notOwn : b ∉ configOwnBytes) :
    Sound ⟨.config, [b]⟩ (decodeConfigFields b) := by
  refine .ite (fun fixed => .ok ?_ fun _ => ?_) fun _ => .error _
  · rw [← configByte_of_fields fixed, configByte_mem_own] at notOwn
    simpa [Instr.wellFormed] using notOwn
  · rw [encode, configByte_of_fields fixed]

theorem decodeConfig_sound (b : Byte) : Sound ⟨.config, [b]⟩ (decodeConfig b) :=
  .row rfl (fun _ => rfl) fun slew => .row rfl (fun _ => rfl) fun write1Low => .row rfl (fun _ => rfl) fun sampleOffset =>
  .row rfl (fun _ => rfl) fun baudRead => .row rfl (fun _ => rfl) fun pulse5V =>
  decodeConfigFields_sound (by simp [configOwnBytes, slew, write1Low, sampleOffset, baudRead, pulse5V])

theorem decodeData_sound (bs : List Byte) : Sound ⟨.data, bs⟩ (decodeData bs) :=
  .ite (fun filler => .ok rfl fun _ => congrArg (Request.mk .data) filler.symm) fun _ =>
  .oneByte (fun _ => .row rfl (fun _ => rfl) fun _ => .row rfl (fun _ => rfl) fun _ => .error _) bs

theorem decodeFrameByte_sound (b : Byte) : Sound ⟨.frame16, [b]⟩ (decodeFrameByte b) :=
  .ite (fun clear => .ok clear fun _ => rfl) fun _ => .error _

theorem decodeConfirm_sound (bs : List Byte) : Sound ⟨.confirm, bs⟩ (decodeConfirm bs) := by
  unfold decodeConfirm
  split
  · exact .ok rfl fun _ => rfl
  · exact .ok rfl fun _ => rfl
  · exact .error _

/-! #### The host operations -/

/-- An operation without operands, at its OPSEL `n`. -/
theorem nullary_sound {i : Instr} {n : Nat} {op : Byte} (hop : op.toNat = n) (wf : i.wellFormed = true)
    (enc : encode i = ⟨.hostop, [BitVec.ofNat 8 n]⟩) (rest : List Byte) :
    Sound ⟨.hostop, op :: rest⟩ (nullary i rest) := by
  refine .ite (fun none => .ok wf fun _ => ?_) fun _ => .error _
  rw [enc, ← hop, BitVec.ofNat_toNat, BitVec.setWidth_eq, List.isEmpty_iff.1 none]

theorem Level.code_of_ofByte {b : Byte} {l : Level} (h : Level.ofByte b = .ok l) : l.code.setWidth 8 = b := by
  unfold Level.ofByte at h
  split at h <;> cases h
  all_goals exact (BitVec.eq_of_toNat_eq ‹b.toNat = _›).symm

theorem boolByte_of_boolOfByte {b : Byte} {a : Bool} (h : boolOfByte b = .ok a) : boolByte a = b := by
  unfold boolOfByte at h
  split at h <;> cases h
  all_goals exact (BitVec.eq_of_toNat_eq ‹b.toNat = _›).symm

theorem decodeEncode_sound (rest : List Byte) : Sound ⟨.hostop, 2 :: rest⟩ (decodeEncode rest) := by
  refine .ite (fun _ => .error _) fun complete => .ite (fun _ => .error _) fun inRange => ?_
  have len : rest.length = 9 := by simpa using complete
  have last : [rest.getD 8 0] = rest.drop 8 := by
    rw [List.getD_eq_getElem _ _ (by omega), List.drop_eq_getElem_cons (by omega), List.drop_eq_nil_of_le (by omega)]
  refine .ok ?_ fun _ => ?_
  · simpa [Instr.wellFormed, len] using inRange
  · rw [encode, params_romLength, BitVec.ofNat_toNat, BitVec.setWidth_eq, last, List.take_append_drop]

theorem decodeHostop_sound (bs : List Byte) : Sound ⟨.hostop, bs⟩ (decodeHostop bs) := by
  unfold decodeHostop
  split
  · exact .error _
  · next op rest =>
    split
    case h_1 hop | h_5 hop | h_6 hop | h_9 hop | h_10 hop | h_11 hop | h_12 hop | h_13 hop | h_14 hop | h_15 hop | h_16 hop =>
      exact nullary_sound hop rfl rfl rest
    case h_2 hop =>
      obtain rfl : op = 1 := BitVec.eq_of_toNat_eq hop
      split
      · exact .ok rfl fun _ => rfl
      · exact .error _
    case h_3 hop =>
      obtain rfl : op = 2 := BitVec.eq_of_toNat_eq hop
      exact decodeEncode_sound rest
    case h_4 hop =>
      obtain rfl : op = 3 := BitVec.eq_of_toNat_eq hop
      exact .ite (fun complete => .ok complete fun _ => rfl) fun _ => .error _
    case h_7 hop =>
      obtain rfl : op = 6 := BitVec.eq_of_toNat_eq hop
      split
      · exact .map fun l target => .ok rfl fun _ => by rw [encode, Level.code_of_ofByte target]
      · exact .error _
    case h_8 hop =>
      obtain rfl : op = 7 := BitVec.eq_of_toNat_eq hop
      split
      · exact .map fun a alarmOnly => .ok rfl fun _ => by rw [encode, boolByte_of_boolOfByte alarmOnly]
      · exact .error _
    case h_17 => exact .error _

/-- Settles O59: each format's decoder accepts only well-formed items, and reads every byte of them. -/
theorem decodedInstructionsAreWellFormed : Obligations.DecodedInstructionsAreWellFormed := by
  unfold Obligations.DecodedInstructionsAreWellFormed
  rintro ⟨fmt, bs⟩ i h
  suffices sound : Sound ⟨fmt, bs⟩ (decode ⟨fmt, bs⟩) from sound i h
  cases fmt
  case fixed => exact .oneByte decodeFixed_sound bs
  case comm => exact .oneByte decodeComm_sound bs
  case config => exact .oneByte decodeConfig_sound bs
  case data => exact decodeData_sound bs
  case frame16 => exact .oneByte decodeFrameByte_sound bs
  case resp17 => exact .nBytes (fun _ => beq_iff_eq.2) (fun _ => rfl) bs
  case status => exact .oneByte (fun _ => .ok rfl fun _ => rfl) bs
  case resp5 => exact .nBytes (fun _ => beq_iff_eq.2) (fun _ => rfl) bs
  case confirm => exact decodeConfirm_sound bs
  case notify => exact .oneByte (fun _ => .ok rfl fun _ => rfl) bs
  case rom8 => exact .nBytes (fun _ => beq_iff_eq.2) (fun _ => rfl) bs
  case hostop => exact decodeHostop_sound bs

end Sys2Proof

/-! ## Table words -/

namespace Sys2Proof.Machine

theorem decodeTableWord_some {nbits w : Nat} {i : Instr} (h : decodeTableWord nbits w = some i) :
    decode (tableRequest nbits w) = .ok i := by
  unfold decodeTableWord at h
  split at h
  · next j hd => rw [hd, Option.some.inj h]
  · cases h

/-- Settles O57: the word is the oldest request or the item, and its step performs it. -/
theorem fetchWordRunsNext : Obligations.FetchWordRunsNext := by
  unfold Obligations.FetchWordRunsNext
  intro s nbits w i h
  have decoded := decodeTableWord_some h
  rcases s.withFetchWord_cases nbits w with ⟨bs, request, placed⟩ | ⟨-, placed⟩ <;> rw [placed]
  · rw [step_request rfl rfl, ← request, perform_ok decoded]
  · rw [step_item rfl, perform_ok decoded]

end Sys2Proof.Machine

/-! ## The CRC8 unit -/

namespace Sys2Proof.Machine

/-! ### The two operations -/

theorem exec_crcNew (s : State) : exec .crcNew s = .next ((s.setCrc 0).setReply (some .done)) := rfl

theorem exec_crcCalc (b : Byte) (s : State) :
    exec (.crcCalc b) s =
      .next ((s.setCrc (crcNext params s.crc.state b)).setReply (some (.state (crcNext params s.crc.state b)))) := rfl

/-- Settles O1: the unit's step writes 0 and the reply. -/
theorem crcNewClearsTheState : Obligations.CrcNewClearsTheState := by
  unfold Obligations.CrcNewClearsTheState
  exact exec_crcNew

/-- Settles O2: the new state is `crcNext`, which is the table entry. -/
theorem crcCalcTakesTheTableEntry : Obligations.CrcCalcTakesTheTableEntry := by
  unfold Obligations.CrcCalcTakesTheTableEntry
  exact exec_crcCalc

/-! ### The bit-serial form -/

/-- The serial form shifts the message byte beside the state; their exclusive or takes the steps of the table's loop (R83). -/
theorem crcSerial_xor_ushiftRight (n : Nat) (st b : Byte) :
    crcSerial n st b ^^^ (b >>> n) = crcShifts params n (st ^^^ b) := by
  induction n generalizing st b with
  | zero => simp [crcSerial, crcShifts]
  | succ n ih =>
    have step : (if (st ^^^ b).getLsbD 0 then (st >>> 1) ^^^ 0x8C#8 else st >>> 1) ^^^ (b >>> 1) =
        crcShift params (st ^^^ b) := by
      unfold crcShift
      split
      · rw [BitVec.ushiftRight_xor_distrib]; ac_rfl
      · rw [BitVec.ushiftRight_xor_distrib]
    rw [crcSerial, crcShifts, ← step, ← ih, ← BitVec.shiftRight_add, Nat.add_comm n 1]

/-- After eight steps no bit of the message byte is left. -/
theorem crcSerial_eight (st b : Byte) : crcSerial 8 st b = crcNext params st b := by
  have shiftedOut : b >>> 8 = 0#8 := BitVec.ushiftRight_eq_zero (Nat.le_refl 8)
  rw [crcNext, crcTable_params, ← crcSerial_xor_ushiftRight, shiftedOut, BitVec.xor_zero]

/-- Settles O4: eight serial steps are the table's eight steps on the index. -/
theorem crcCalcIsEightSerialSteps : Obligations.CrcCalcIsEightSerialSteps := by
  unfold Obligations.CrcCalcIsEightSerialSteps
  intro b s
  rw [crcSerial_eight]
  exact exec_crcCalc b s

/-! ### Linearity and bijectivity of the table -/

theorem crcShift_eq_xor (c : Config) (x : Byte) :
    crcShift c x = (x >>> 1) ^^^ (if x.getLsbD 0 then c.crcPolyReflected else 0) := by
  unfold crcShift
  split
  · rfl
  · exact BitVec.xor_zero.symm

theorem crcShift_xor (c : Config) (a b : Byte) : crcShift c (a ^^^ b) = crcShift c a ^^^ crcShift c b := by
  have feedback : (if (a ^^^ b).getLsbD 0 then c.crcPolyReflected else 0) =
      (if a.getLsbD 0 then c.crcPolyReflected else 0) ^^^ (if b.getLsbD 0 then c.crcPolyReflected else 0) := by
    rw [BitVec.getLsbD_xor]
    cases a.getLsbD 0 <;> cases b.getLsbD 0 <;> simp
  simp only [crcShift_eq_xor, feedback, BitVec.ushiftRight_xor_distrib]
  ac_rfl

theorem crcShifts_xor (c : Config) (n : Nat) (a b : Byte) :
    crcShifts c n (a ^^^ b) = crcShifts c n a ^^^ crcShifts c n b := by
  induction n generalizing a b with
  | zero => rfl
  | succ n ih => rw [crcShifts, crcShift_xor, ih]; rfl

/-- The polynomial's top bit is set, and a right shift leaves that bit 0: it tells which bit was shifted out. -/
theorem crcShift_getLsbD_seven (x : Byte) : (crcShift params x).getLsbD 7 = x.getLsbD 0 := by
  have top : (x >>> 1).getLsbD 7 = false := by
    rw [BitVec.getLsbD_ushiftRight]
    exact BitVec.getLsbD_of_ge x 8 (Nat.le_refl 8)
  rw [crcShift_eq_xor, BitVec.getLsbD_xor, top, Bool.false_xor]
  cases x.getLsbD 0 <;> rfl

/-- The bit shifted out and the feedback can be told from the result, so the other seven bits can be too. -/
theorem crcShift_injective : Function.Injective (crcShift params) := by
  intro a b h
  have low : a.getLsbD 0 = b.getLsbD 0 := by rw [← crcShift_getLsbD_seven, h, crcShift_getLsbD_seven]
  have high : a >>> 1 = b >>> 1 := by
    rw [crcShift_eq_xor, crcShift_eq_xor, low] at h
    exact (BitVec.xor_left_inj _).1 h
  refine BitVec.eq_of_getLsbD_eq fun i _ => ?_
  cases i with
  | zero => exact low
  | succ i => simpa [Nat.add_comm 1 i] using congrArg (BitVec.getLsbD · i) high

theorem crcShifts_injective (n : Nat) : Function.Injective (crcShifts params n) := by
  induction n with
  | zero => exact Function.injective_id
  | succ n ih => exact ih.comp crcShift_injective

@[simp] theorem crcTable_zero : crcTable params 0 = 0 := by decide

theorem crcTable_injective : Function.Injective (crcTable params) := by
  rw [funext crcTable_params]
  exact crcShifts_injective 8

/-- Settles O5: each step of the loop is linear and injective, and a byte has finitely many values. -/
theorem crcTableIsLinearBijection : Obligations.CrcTableIsLinearBijection := by
  unfold Obligations.CrcTableIsLinearBijection
  refine ⟨crcTable_zero, fun a b => ?_, Finite.injective_iff_bijective.1 crcTable_injective⟩
  simp only [crcTable_params, crcShifts_xor]

/-! ### Appending the checksum -/

theorem crcTable_eq_zero {i : Byte} : crcTable params i = 0 ↔ i = 0 := by
  conv_lhs => rw [← crcTable_zero]
  exact crcTable_injective.eq_iff

/-- One more byte brings the state to 0 exactly when it equals the state (R82, R86 d). -/
theorem crcNext_eq_zero {st b : Byte} : crcNext params st b = 0 ↔ b = st := by
  rw [crcNext, crcTable_eq_zero, eq_comm (a := b)]
  exact BitVec.xor_eq_zero_iff

theorem crcFold_snoc_eq_zero {B : List Byte} {b : Byte} : crcFold params (B ++ [b]) = 0 ↔ b = crcFold params B := by
  rw [crcFold_snoc, crcNext_eq_zero]

/-- Settles O6: the last step looks up index 0 exactly when the last byte is the fold of the others. -/
theorem appendedChecksumFoldsToZero : Obligations.AppendedChecksumFoldsToZero := by
  unfold Obligations.AppendedChecksumFoldsToZero
  refine ⟨fun B => crcFold_snoc_eq_zero.2 rfl, fun rom len => ?_, crcFold_zeroBytes 8⟩
  have lastByte : rom = rom.take 7 ++ [rom.getD 7 0] := by
    rw [List.getD_eq_getElem _ _ (by omega), List.take_append_getElem, List.take_of_length_le (by omega)]
  conv_lhs => rw [lastByte]
  exact crcFold_snoc_eq_zero

/-! ### The listing -/

/-- The listing is the loop of R83 run on the indices in order (R84). -/
theorem crcListing_eq_map : crcListing = (List.range 256).map fun i => crcTable params (BitVec.ofNat 8 i) := by
  decide +kernel

/-- Settles O3: entry `i` is the loop's result on the `i`-th index. -/
theorem crcTableIsTheListing : Obligations.CrcTableIsTheListing := by
  unfold Obligations.CrcTableIsTheListing
  rw [crcListing_eq_map]
  refine ⟨by rw [List.length_map, List.length_range], fun i => ?_⟩
  rw [List.getElem?_map, List.getElem?_range i.isLt, Option.map_some, BitVec.ofNat_toNat, BitVec.setWidth_eq]

end Sys2Proof.Machine

/-! ## The bit-frame codec -/

namespace Sys2Proof.Machine

/-! ### Byte lists by their bits -/

/-- A byte list is determined by its length and its bits (R7). -/
theorem eq_of_bit_eq {A B : List Byte} (len : A.length = B.length) (h : ∀ k, k < 8 * A.length → bit A k = bit B k) :
    A = B := by
  refine List.ext_getElem len fun n hA hB => BitVec.eq_of_getLsbD_eq fun i hi => ?_
  have place : (8 * n + i) / 8 = n ∧ (8 * n + i) % 8 = i := by omega
  have same := h (8 * n + i) (by omega)
  rwa [bit, bit, place.1, place.2, List.getD_eq_getElem _ _ hA, List.getD_eq_getElem _ _ hB] at same

/-! ### The swap of byte pairs (R93) -/

theorem swapPairs_swapPairs (l : List Byte) : swapPairs (swapPairs l) = l := by
  induction l using swapPairs.induct with
  | case1 a b rest ih => rw [swapPairs, swapPairs, ih]
  | case2 l short =>
    have fixed : swapPairs l = l := by rw [swapPairs]; exact short
    rw [fixed, fixed]

/-- Both bytes of pair `j` of a list that holds the whole pair. -/
theorem swapPairs_getElem? (l : List Byte) (j : Nat) (hj : 2 * j + 1 < l.length) :
    (swapPairs l)[2 * j]? = l[2 * j + 1]? ∧ (swapPairs l)[2 * j + 1]? = l[2 * j]? := by
  induction l using swapPairs.induct generalizing j with
  | case1 a b rest ih =>
    cases j with
    | zero => exact ⟨rfl, rfl⟩
    | succ j => exact ih j (by simp only [List.length_cons] at hj; omega)
  | case2 l short =>
    match l, hj with
    | [_], hj => simp at hj
    | a :: b :: rest, _ => exact absurd rfl (short a b rest)

theorem quirk_quirk (R : List Byte) : quirk (quirk R) = R := by
  cases R with
  | nil => rfl
  | cons r0 rest => rw [quirk, quirk, swapPairs_swapPairs]

/-- Settles O9: behind byte 0, `Quirk` is the swap of pairs. -/
theorem quirkSwapsEachPair : Obligations.QuirkSwapsEachPair := by
  unfold Obligations.QuirkSwapsEachPair
  intro R hR
  refine ⟨(quirk_length R).trans hR, ?_, ?_, quirk_quirk R⟩
  · cases R <;> rfl
  · cases R with
    | nil => cases hR
    | cons r0 rest => exact fun j hj => swapPairs_getElem? rest j (by simp only [List.length_cons] at hR; omega)

/-- The frame in a response that was made by `Quirk` is the one `Quirk` was given. -/
theorem responseFrame_quirk (x : Byte) (E : List Byte) : responseFrame (quirk (x :: E)) = E := by
  rw [responseFrame, quirk_quirk]; rfl

/-! ### `ENCODE` (R92) -/

/-- One pass of the loop writes the steering place of its index, and only up to the position. -/
theorem bit_encodeBit (rom : List Byte) (ld i j : Nat) {F : List Byte} (hF : F.length = 16) (hi : i < 64) :
    bit (encodeBit rom ld i F) j =
      if j = 2 * i ∧ i ≤ ld - 1 then (if i < ld - 1 then bit rom i else true) else bit F j := by
  have written (v : Bool) : bit (setbit F (2 * i) v) j = if j = 2 * i then v else bit F j := bit_setbit F _ j v (by omega)
  unfold encodeBit
  rcases Nat.lt_trichotomy i (ld - 1) with below | here | above
  · simp [below, below.le, written]
  · subst here; simp [written]
  · simp [above.not_ge, above.not_gt, above.ne']

theorem dataBit_encodeLoop (rom : List Byte) (ld i : Nat) {n : Nat} (hn : n ≤ 64) :
    dataBit (encodeLoop params rom ld n) i = false := by
  induction n with
  | zero => exact bit_zeroBytes _ _
  | succ n ih =>
    rw [dataBit, encodeLoop, bit_encodeBit rom ld n _ (encodeLoop_length ..) (by omega), if_neg (by omega)]
    exact ih (by omega)

/-- After `n` passes the steering bits below `n` are those of R92, and the others are still 0. -/
theorem steerBit_encodeLoop (rom : List Byte) (ld i : Nat) {n : Nat} (hn : n ≤ 64) :
    steerBit (encodeLoop params rom ld n) i =
      if i < n then (if i < ld - 1 then bit rom i else if i = ld - 1 then true else false) else false := by
  induction n with
  | zero => exact bit_zeroBytes _ _
  | succ n ih =>
    rw [steerBit, encodeLoop, bit_encodeBit rom ld n _ (encodeLoop_length ..) (by omega), ← steerBit, ih (by omega)]
    rcases Nat.lt_trichotomy i n with old | rfl | later
    · simp [old, old.ne, Nat.lt_succ_of_lt old]
    · rcases Nat.lt_trichotomy i (ld - 1) with below | here | above
      · simp [below, below.le]
      · simp [← here]
      · simp [above.not_ge, above.not_gt, above.ne']
    · simp [later.not_gt, later.ne', show ¬ i < n + 1 by omega]

theorem dataBit_encodeFrame (rom : List Byte) (ld i : Nat) : dataBit (encodeFrame params rom ld) i = false := by
  unfold encodeFrame
  split
  · exact bit_zeroBytes _ _
  · exact dataBit_encodeLoop rom ld i (Nat.le_refl 64)

theorem steerBit_encodeFrame (rom : List Byte) (ld : Nat) {i : Nat} (hi : i < 64) :
    steerBit (encodeFrame params rom ld) i =
      if ld = 0 then false else if i < ld - 1 then bit rom i else if i = ld - 1 then true else false := by
  unfold encodeFrame
  split
  · exact bit_zeroBytes _ _
  · exact (steerBit_encodeLoop rom ld i (Nat.le_refl 64)).trans (if_pos hi)

theorem encode_wellFormed_iff {rom : List Byte} (hr : rom.length = 8) {ld : Nat} :
    (Instr.encode rom ld).wellFormed = true ↔ ld ≤ 64 := by
  rw [Instr.wellFormed, Bool.and_eq_true, beq_iff_eq, decide_eq_true_eq]
  exact and_iff_right hr

/-- Settles O7: the guard of `ENCODE` is the bound of D30, and the frame has the bits that the loop writes. -/
theorem encodeBuildsTheSearchFrame : Obligations.EncodeBuildsTheSearchFrame := by
  unfold Obligations.EncodeBuildsTheSearchFrame
  intro rom ld s hr
  refine ⟨fun h => guarded_of_illFormed (Bool.eq_false_iff.2 fun wf => ?_) _, fun h => ⟨encodeFrame params rom ld, ?_⟩⟩
  · exact absurd ((encode_wellFormed_iff hr).1 wf) (by omega)
  · exact ⟨guarded_of_wellFormed ((encode_wellFormed_iff hr).2 h) _, encodeFrame_length rom ld, fun i hi =>
      ⟨dataBit_encodeFrame rom ld i, steerBit_encodeFrame rom ld hi⟩⟩

/-! ### The last recorded position (R94) -/

/-- A loop over ascending indices that overwrites its result at each recorded index ends with the last one. -/
theorem isLastPosition_succ {rec : Nat → Bool} {n p : Nat} (h : isLastPosition rec n p) :
    isLastPosition rec (n + 1) (if rec n then n + 1 else p) := by
  obtain ⟨bound, attained⟩ := h
  cases hr : rec n with
  | true => exact ⟨fun i hi _ => hi, .inr ⟨n, n.lt_succ_self, hr, rfl⟩⟩
  | false =>
    refine ⟨fun i hi hi' => bound i (Nat.lt_of_le_of_ne (Nat.le_of_lt_succ hi) ?_) hi', attained.imp id ?_⟩
    · rintro rfl; rw [hr] at hi'; cases hi'
    · exact fun ⟨i, hi, recorded⟩ => ⟨i, Nat.lt_succ_of_lt hi, recorded⟩

/-- Recording only the indices below `m` is recording over the first `m` indices. -/
theorem isLastPosition_of_and_lt {rec : Nat → Bool} {m n p : Nat} (hmn : m ≤ n)
    (h : isLastPosition (fun i => rec i && decide (i < m)) n p) : isLastPosition rec m p := by
  obtain ⟨bound, attained⟩ := h
  simp only [Bool.and_eq_true, decide_eq_true_eq] at bound attained
  refine ⟨fun i hi recorded => bound i (by omega) ⟨recorded, hi⟩, attained.imp id ?_⟩
  exact fun ⟨i, _, ⟨recorded, hi⟩, hp⟩ => ⟨i, hi, recorded, hp⟩

theorem isLastPosition_congr {rec rec' : Nat → Bool} {n p : Nat} (same : ∀ i, i < n → rec i = rec' i)
    (h : isLastPosition rec n p) : isLastPosition rec' n p := by
  obtain ⟨bound, attained⟩ := h
  refine ⟨fun i hi recorded => bound i hi ((same i hi).trans recorded), attained.imp id ?_⟩
  exact fun ⟨i, hi, recorded, hp⟩ => ⟨i, hi, (same i hi).symm.trans recorded, hp⟩

/-! ### `DECODE` (R94) -/

theorem bit_decodeLoop_rom (F : List Byte) (j : Nat) {n : Nat} (hn : n ≤ 64) :
    bit (decodeLoop params F n).rom j = if j < n then dataBit F j else false := by
  induction n with
  | zero => exact bit_zeroBytes _ _
  | succ n ih =>
    rw [decodeLoop, decodeBit, bit_setbit _ _ _ _ (by rw [decodeLoop_rom_length]; omega), ih (by omega)]
    rcases Nat.lt_trichotomy j n with old | rfl | later
    · rw [if_neg old.ne, if_pos old, if_pos (by omega)]
    · rw [if_pos rfl, if_pos j.lt_succ_self]
    · rw [if_neg later.ne', if_neg later.not_gt, if_neg (by omega)]

theorem decodeLoop_lastZero (F : List Byte) (n : Nat) :
    isLastPosition (isDiscrepancy F) n (decodeLoop params F n).lastZero := by
  induction n with
  | zero => exact ⟨fun _ hi => absurd hi (Nat.not_lt_zero _), .inl rfl⟩
  | succ n ih => exact isLastPosition_succ ih

theorem decodeLoop_family (F : List Byte) (n : Nat) :
    isLastPosition (fun i => isDiscrepancy F i && decide (i < 8)) n (decodeLoop params F n).family := by
  induction n with
  | zero => exact ⟨fun _ hi => absurd hi (Nat.not_lt_zero _), .inl rfl⟩
  | succ n ih => exact isLastPosition_succ ih

theorem decodeResponse_rom_length (r : List Byte) : (decodeResponse params r).rom.length = 8 :=
  decodeLoop_rom_length _ _

theorem bit_decodeResponse_rom (r : List Byte) {i : Nat} (hi : i < 64) :
    bit (decodeResponse params r).rom i = dataBit (responseFrame r) i :=
  (bit_decodeLoop_rom _ i (Nat.le_refl 64)).trans (if_pos hi)

theorem decodeResponse_lastZero (r : List Byte) :
    isLastPosition (isDiscrepancy (responseFrame r)) 64 (decodeResponse params r).lastZero :=
  decodeLoop_lastZero _ 64

theorem decodeResponse_family (r : List Byte) :
    isLastPosition (isDiscrepancy (responseFrame r)) 8 (decodeResponse params r).family :=
  isLastPosition_of_and_lt (by decide) (decodeLoop_family _ 64)

/-- Settles O10: the three results of the loop on the frame of the response. -/
theorem decodeReadsTheResponse : Obligations.DecodeReadsTheResponse := by
  unfold Obligations.DecodeReadsTheResponse
  intro R s hR
  have wf : (Instr.decode R).wellFormed = true := beq_iff_eq.2 hR
  exact ⟨_, _, _, guarded_of_wellFormed wf _, decodeResponse_rom_length R, fun i => bit_decodeResponse_rom R,
    decodeResponse_lastZero R, decodeResponse_family R⟩

/-! ### The round trip (R96) -/

/-- Settles O11: `DECODE` sees the frame `E`, whose data bits are those of the ROM, and whose steering bits are those of
`ENCODE`. -/
theorem codecRoundTrip : Obligations.CodecRoundTrip := by
  unfold Obligations.CodecRoundTrip
  intro R E k x hR _ _ echo
  constructor
  · refine eq_of_bit_eq ((decodeResponse_rom_length _).trans hR.symm) fun i hi => ?_
    have inCode : i < 64 := by rwa [decodeResponse_rom_length] at hi
    rw [bit_decodeResponse_rom _ inCode, responseFrame_quirk]
    exact (echo i inCode).1
  · refine isLastPosition_congr (fun i hi => ?_) (decodeResponse_lastZero _)
    obtain ⟨data, steering⟩ := echo i hi
    rw [responseFrame_quirk, isDiscrepancy, dataBit, steerBit, data, steering]

end Sys2Proof.Machine

/-! ## The filter of `ReadFiltered`, for any predicate -/

namespace Sys2Proof.Machine

/-- A call that returns has completed; its answer is the port's, and only the port changes. -/
theorem transport_eq_ok {c : Call} {s t : State} {a : List Byte} (h : transport c s = .ok a t) :
    a = s.port.answer c ∧ t = s.setPort (s.port.complete c) := by
  rcases transport_cases c s with e | ⟨k, d, -, e⟩ | ⟨d, e⟩ <;> rw [e] at h <;> cases h
  exact ⟨rfl, rfl⟩

section
variable {c : Config} {n i left : Nat} {buf : List Byte} {s : State}

/-! ### The scan -/

/-- The scan leaves bytes that are no notifications as they are, and makes no call for them. -/
theorem filterLoop_skip {m : Nat} (hm : m ≤ left)
    (quiet : ∀ j, i ≤ j → j < i + m → c.notify (buf.getD j 0) = false) :
    filterLoop c left i buf s = filterLoop c (left - m) (i + m) buf s := by
  induction m generalizing i left with
  | zero => rfl
  | succ m ih =>
    obtain ⟨left, rfl⟩ : ∃ l, left = l + 1 := ⟨left - 1, by omega⟩
    rw [filterLoop, quiet i (Nat.le_refl i) (by omega), if_neg (by decide),
      ih (by omega) fun j hi hj => quiet j (by omega) (by omega), Nat.add_sub_add_right, Nat.add_assoc, Nat.add_comm 1 m]

/-- No notification among the bytes examined: the scan leaves the buffer and makes no call. -/
theorem filterLoop_of_quiet (quiet : ∀ j, i ≤ j → j < i + left → c.notify (buf.getD j 0) = false) :
    filterLoop c left i buf s = .ok buf s := by
  rw [filterLoop_skip (Nat.le_refl left) quiet, Nat.sub_self]
  rfl

/-- A notification at the index examined is removed, and a filler byte put last (R102). -/
theorem filterLoop_of_notification (h : c.notify (buf.getD i 0) = true) (served : s.port.verdictAt 0 = .ok) :
    filterLoop c (left + 1) i buf s =
      filterLoop c left (i + 1) (buf.eraseIdx i ++ [s.port.byteAt 0]) (s.setPort (s.port.complete (.read 1))) := by
  rw [filterLoop, if_pos h, transport_of_grants _ _ served]
  rfl

/-- A scan within the buffer that returns keeps the length, makes at most one call for each index, and changes only the port. -/
theorem filterLoop_eq_ok {r : List Byte} {t : State} (h : filterLoop c left i buf s = .ok r t)
    (within : i + left ≤ buf.length) :
    ∃ p, t = s.setPort p ∧ r.length = buf.length ∧ p.calls ≤ s.port.calls + left := by
  induction left generalizing i buf s with
  | zero => cases h; exact ⟨_, rfl, rfl, Nat.le_refl _⟩
  | succ left ih =>
    rw [filterLoop] at h
    split at h
    · obtain ⟨x, s₁, read, h⟩ := Res.bind_eq_ok h
      obtain ⟨rfl, rfl⟩ := transport_eq_ok read
      have length : (buf.eraseIdx i ++ s.port.answer (.read 1)).length = buf.length := by
        rw [List.length_append, List.length_eraseIdx_of_lt (by omega), Port.answer, Port.incoming_length]
        omega
      obtain ⟨p, rfl, hr, hp⟩ := ih h (by omega)
      refine ⟨p, rfl, hr.trans length, ?_⟩
      rw [State.setPort_port, Port.complete_calls] at hp
      omega
    · obtain ⟨p, rfl, hr, hp⟩ := ih h (by omega)
      exact ⟨p, rfl, hr, by omega⟩

/-! ### The length, and the reads that are not filtered -/

theorem filterResponse_eq_ok {r : List Byte} {t : State} (h : filterResponse c buf s = .ok r t) :
    ∃ p, t = s.setPort p ∧ r.length = buf.length ∧ p.calls ≤ s.port.calls + buf.length := by
  unfold filterResponse at h
  split at h
  · exact filterLoop_eq_ok h (by omega)
  · cases h; exact ⟨_, rfl, rfl, Nat.le_add_right _ _⟩

/-- The filter does nothing in Data mode, on one byte, or where no byte is a notification (R102). -/
theorem filterResponse_of_quiet
    (h : s.bus.mode = .data ∨ buf.length < 2 ∨ ∀ b ∈ buf, c.notify b = false) : filterResponse c buf s = .ok buf s := by
  unfold filterResponse
  split
  · next on =>
    have quiet := (h.resolve_left (by simp [on.1])).resolve_left (by omega)
    refine filterLoop_of_quiet fun j _ hj => quiet _ ?_
    rw [List.getD_eq_getElem _ _ (by omega)]
    exact List.getElem_mem _
  · rfl

/-- Settles O13: the scan keeps the length and reads once for each index at most; a quiet scan does nothing. -/
theorem readFilteredKeepsTheLength : Obligations.ReadFilteredKeepsTheLength := by
  unfold Obligations.ReadFilteredKeepsTheLength
  intro c n s t r h
  obtain ⟨buf, s₁, read, h⟩ := Res.bind_eq_ok h
  obtain ⟨rfl, rfl⟩ := transport_eq_ok read
  have length : (s.port.answer (.read n)).length = n := s.port.incoming_length n
  obtain ⟨p, rfl, hr, hp⟩ := filterResponse_eq_ok h
  rw [length] at hr hp
  rw [State.setPort_port, Port.complete_calls] at hp
  refine ⟨hr, hp, rfl, fun quiet => ?_⟩
  have plain := filterResponse_of_quiet (s := s.setPort (s.port.complete (.read n))) (by rwa [length])
  rw [plain] at h
  injection h with bytes state
  rw [← state]
  exact ⟨bytes.symm, Port.complete_calls _ _⟩

/-! ### A notification among the bytes read -/

/-- `n` bytes, the byte at index `i` removed from them, the gap closed and the filler `x` put last (R102). -/
def closeGap (f : Nat → Byte) (n i : Nat) (x : Byte) (k : Nat) : Byte :=
  if k < i then f k else if k < n - 1 then f (k + 1) else x

/-- The filler is the byte after the `n`, so that closing the gap skips the byte at index `i`. -/
theorem closeGap_next (f : Nat → Byte) {k : Nat} (hk : k < n) : closeGap f n i (f n) k = f (if k < i then k else k + 1) := by
  unfold closeGap
  split
  · rfl
  · split
    · rfl
    · rw [show k + 1 = n by omega]

/-- A second filler, for a notification at the last index, takes the place of the first. -/
theorem closeGap_last (f : Nat → Byte) (x : Byte) {k : Nat} (hi : i < n - 1) :
    closeGap (closeGap f n i (f n)) n (n - 1) x k = if k < i then f k else if k < n - 1 then f (k + 1) else x := by
  by_cases last : k < n - 1
  · simp [closeGap, last]
  · have behind : ¬ k < i := by omega
    simp [closeGap, last, behind]

theorem eraseIdx_append_filler (f : Nat → Byte) (x : Byte) (hi : i < n) :
    ((List.range n).map f).eraseIdx i ++ [x] = (List.range n).map (closeGap f n i x) := by
  have length : (((List.range n).map f).eraseIdx i).length = n - 1 := by simp [List.length_eraseIdx, hi]
  refine List.ext_getElem (by simp [length]; omega) fun k _ hk => ?_
  rw [List.length_map, List.length_range] at hk
  rw [List.getElem_map, List.getElem_range, closeGap]
  by_cases last : k < n - 1
  · rw [List.getElem_append_left (by omega), List.getElem_eraseIdx, if_pos last]
    simp only [List.getElem_map, List.getElem_range, dite_eq_ite]
  · rw [List.getElem_append_right (by omega), if_neg (by omega), if_neg last, List.getElem_singleton]

theorem getD_map_range (f : Nat → Byte) {j : Nat} (hj : j < n) : ((List.range n).map f).getD j 0 = f j := by
  simp [List.getD, hj]

/-- The scan up to its first notification, at index `i + m`, and over it: the filler stands last. -/
theorem filterLoop_to_notification {f : Nat → Byte} {m : Nat} (hm : m < left) (within : i + m < n)
    (served : s.port.verdictAt 0 = .ok) (hit : c.notify (f (i + m)) = true)
    (quiet : ∀ j, i ≤ j → j < i + m → c.notify (f j) = false) :
    filterLoop c left i ((List.range n).map f) s =
      filterLoop c (left - m - 1) (i + m + 1) ((List.range n).map (closeGap f n (i + m) (s.port.byteAt 0)))
        (s.setPort (s.port.complete (.read 1))) := by
  have skip := filterLoop_skip (c := c) (s := s) (i := i) (buf := (List.range n).map f) hm.le fun j hi hj => by
    rw [getD_map_range f (by omega)]; exact quiet j hi hj
  have left_eq : left - m = left - m - 1 + 1 := by omega
  rw [skip, left_eq, filterLoop_of_notification (by rwa [getD_map_range f within]) served, eraseIdx_append_filler f _ within]
  rfl

/-- The filter of a read in Command mode, up to its first notification. -/
theorem readFiltered_to_notification (two : 2 ≤ n) (mode : s.bus.mode = .command) (served : s.port.grants 2) (hi : i < n)
    (hit : c.notify (s.port.byteAt i) = true) (quiet : ∀ j, j < i → c.notify (s.port.byteAt j) = false) :
    readFiltered c n s =
      filterLoop c (n - i - 1) (i + 1) ((List.range n).map (closeGap s.port.byteAt n i (s.port.byteAt n)))
        (s.setPort (s.port.perform [.read n, .read 1])) := by
  have length : ((List.range n).map s.port.byteAt).length = n := by simp
  have read := transport_of_grants (.read n) s (served 0 (by omega))
  have filler : (s.port.complete (.read n)).verdictAt 0 = .ok := Port.grants_complete _ _ 1 served 0 (by omega)
  rw [readFiltered, read, Res.bind_ok]
  show filterResponse c ((List.range n).map s.port.byteAt) _ = _
  rw [filterResponse, if_pos ⟨mode, by omega⟩, length,
    filterLoop_to_notification (m := i) hi (by omega) filler (by rwa [Nat.zero_add])
      fun j _ hj => quiet j (by omega)]
  simp only [Nat.zero_add, State.setPort_port, Port.byteAt_complete_read, Nat.add_zero]
  rfl

/-- Settles O14: the scan to the notification at `i`, then over the rest, with or without a second notification at the end. -/
theorem readFilteredRemovesANotification : Obligations.ReadFilteredRemovesANotification := by
  unfold Obligations.ReadFilteredRemovesANotification
  constructor
  · intro c n i s two hi mode served hit others
    rw [readFiltered_to_notification two mode served hi hit fun j hj => others j (.inl hj), filterLoop_of_quiet]
    · refine congrArg₂ Res.ok (List.map_congr_left fun k hk => ?_) rfl
      exact closeGap_next _ (List.mem_range.1 hk)
    · intro j hi hj
      rw [getD_map_range _ (by omega), closeGap_next _ (by omega), if_neg (by omega)]
      exact others _ (.inr ⟨by omega, by omega⟩)
  · intro c n i s hi mode served hit filler others
    have served_rest : (s.port.perform [.read n, .read 1]).verdictAt 0 = .ok :=
      Port.grants_perform _ [.read n, .read 1] 1 served 0 (by omega)
    have last : i + 1 + (n - i - 2) = n - 1 := by omega
    rw [readFiltered_to_notification (by omega) mode (Port.grants_mono served (by omega)) (by omega) hit
        fun j hj => others j (.inl hj),
      filterLoop_to_notification (m := n - i - 2) (by omega) (by omega) served_rest]
    · have scanned : n - i - 1 - (n - i - 2) - 1 = 0 := by omega
      rw [scanned, last, filterLoop, State.setPort_port, Port.byteAt_perform]
      refine congrArg₂ Res.ok (List.map_congr_left fun k _ => ?_) rfl
      rw [closeGap_last _ _ (by omega), apply_ite s.port.byteAt, apply_ite s.port.byteAt]
      rfl
    · rw [last, closeGap_next _ (by omega), if_neg (by omega), Nat.sub_add_cancel (by omega)]
      exact filler
    · intro j hi hj
      rw [closeGap_next _ (by omega), if_neg (by omega)]
      exact others _ (.inr ⟨by omega, by omega⟩)

end

end Sys2Proof.Machine

/-! ## The Bus Controller: served calls, failing calls, and how a `BUS_DETECT` ends -/

namespace Sys2Proof.Machine

/-! ### The tests of the received bytes, at R5's values -/

theorem presenceOf_params (b : Byte) : presenceOf params b = presenceBits b := by
  rw [presenceBits, Bool.decide_or]
  rfl

theorem inSync_params (b : Byte) : inSync params b = decide (b &&& 0x1C#8 = 0x0C#8) := rfl

/-- The mask 0xFC leaves the two lowest bits of byte 4 free (D15). -/
theorem masked_detect_byte (b : Byte) :
    b &&& 0xFC#8 = 0x90#8 ↔ b = 0x90#8 ∨ b = 0x91#8 ∨ b = 0x92#8 ∨ b = 0x93#8 := by
  revert b; decide

/-- Settles O25: the four values of byte 4 under its mask. -/
theorem detectNeverAcceptsGarbage : Obligations.DetectNeverAcceptsGarbage := by
  unfold Obligations.DetectNeverAcceptsGarbage
  refine ⟨fun r _ => ?_, rfl, rfl⟩
  rw [accept_params, detectAccepts, decide_eq_true_iff, masked_detect_byte]

/-- The confirmation test of a level change, on the bytes it reads. -/
theorem levelAccept_iff (target : Level) (p : Port) :
    levelAccept target (p.bytesFrom 0 (levelBytes target)) = true ↔ levelConfirmed target p := by
  unfold levelAccept levelBytes levelConfirmed
  split
  · exact (congrArg (· = true) (acceptNormal_params _ _)).to_iff.trans decide_eq_true_iff
  · exact decide_eq_true_iff

/-! ### Calls in a row -/

@[simp] theorem detectCalls_length : detectCalls.length = 8 := rfl
@[simp] theorem levelExchange_length (target : Level) : (levelExchange target).length = 2 := by
  unfold levelExchange
  split <;> rfl

/-- Calls in a row; the result is the answer of the last. -/
def callAll : List Call → List Byte → State → Res (List Byte)
  | [], a, s => .ok a s
  | c :: cs, _, s => (transport c s).bind (callAll cs)

/-- The state in which the call `c` has failed after the calls `cs`, with the controller's registers at `b`. -/
def State.failedAt (s : State) (cs : List Call) (b : Bus) (c : Call) (k : IoKind) (d : Nat) : State :=
  { s with port := (s.port.perform cs).cut c d (.raised (.io k)), bus := b }

theorem Port.verdictAt_perform (p : Port) (cs : List Call) (j : Nat) :
    (p.perform cs).verdictAt j = p.verdictAt (cs.length + j) := by
  induction cs generalizing p with
  | nil => rw [Port.perform_nil, List.length_nil, Nat.zero_add]
  | cons c cs ih => rw [Port.perform_cons, ih, Port.verdictAt_complete, List.length_cons, Nat.add_right_comm]

section
variable (s : State) (cs : List Call) (b : Bus)

theorem callAll_served (ds : List Call) (a : List Byte) (h : s.port.grants (cs.length + ds.length)) :
    ∃ r, callAll ds a (s.afterCalls cs b) = .ok r (s.afterCalls (cs ++ ds) b) := by
  induction ds generalizing cs a with
  | nil => exact ⟨a, by rw [List.append_nil]; rfl⟩
  | cons c ds ih =>
    rw [callAll, transport_served s cs b c (Port.grants_mono h (by simp)), Res.bind_ok, List.append_cons cs c ds]
    exact ih (cs ++ [c]) _ (Port.grants_mono h (by simp; omega))

/-- Where one of the calls fails: those before it are made, none after it is (R160). -/
theorem callAll_failed {ds : List Call} {j : Nat} {c : Call} {k : IoKind} {d : Nat} (a : List Byte)
    (hc : ds[j]? = some c) (fails : c.canFail = true) (served : s.port.grants (cs.length + j))
    (failure : s.port.verdictAt (cs.length + j) = .fail k d) :
    callAll ds a (s.afterCalls cs b) = .stop (.raised (.io k)) (s.failedAt (cs ++ ds.take j) b c k d) := by
  induction ds generalizing cs a j with
  | nil => cases hc
  | cons c₀ ds ih =>
    cases j with
    | zero =>
      cases hc
      rw [callAll, transport_of_fail fails (by rwa [State.afterCalls_port, Port.verdictAt_perform]), List.take_zero,
        List.append_nil]
      rfl
    | succ j =>
      rw [callAll, transport_served s cs b c₀ (Port.grants_mono served (by omega)), Res.bind_ok, List.take_succ_cons,
        List.append_cons cs c₀ (ds.take j)]
      have index : (cs ++ [c₀]).length + j = cs.length + (j + 1) := by simp; omega
      exact ih (cs ++ [c₀]) _ hc (by rwa [index]) (by rwa [index])

end

/-- The three calls of the break (R107). -/
theorem emulateBreak_eq (s : State) :
    emulateBreak params s = (callAll [.setBaud 2400, .write [0x00], .setBaud 9600] [] s).map fun _ => () := by
  simp only [emulateBreak, callAll, emit, Res.map, Res.bind_assoc, Res.bind_ok]
  rfl

/-- With the default predicate, a `BUS_DETECT` is its eight calls and the test of what the last has read (R107, R108). -/
theorem detect_eq (s : State) :
    detect params s = (callAll detectCalls [] (s.setMode .command)).map (accept params) := by
  simp only [detect, emulateBreak, detectCalls, callAll, emit, Res.map, Res.bind_assoc, Res.bind_ok, readFiltered,
    filterResponse_quiet]
  rfl

theorem toLevel_eq (target : Level) (s : State) :
    toLevel params target s = (callAll (levelExchange target) [] s).map (levelAccept target) := by
  unfold toLevel levelExchange levelAccept
  split
  · simp only [toNormal, callAll, emit, Res.map, Res.bind_assoc, Res.bind_ok, readFiltered, filterResponse_quiet]
    rfl
  · simp only [toPulse, callAll, emit, Res.map, Res.bind_assoc, Res.bind_ok, readFiltered, filterResponse_quiet]
    rfl

theorem ensureMode_eq (m : Mode) (s : State) :
    ensureMode params m s = (callAll (modeSwitchCalls s.bus.mode m) [] s).bind fun _ t => .ok () (t.setMode m) := by
  unfold ensureMode modeSwitchCalls
  split
  · next same => rw [← same]; rfl
  · cases m <;> simp only [callAll, emit, Res.map, Res.bind_assoc, Res.bind_ok] <;> rfl

/-! ### One item: the switch, the break, the status byte -/

theorem exec_switchInstr (m : Mode) (s : State) : exec (switchInstr m) s = switchMode m s := by cases m <;> rfl

/-- `EnsureMode` when its call, if it makes one, succeeds (R101). -/
theorem ensureMode_of_grants {m : Mode} {s : State} (served : s.port.grants (modeSwitchCalls s.bus.mode m).length) :
    ensureMode params m s = .ok () (s.afterCalls (modeSwitchCalls s.bus.mode m) { s.bus with mode := m }) :=
  ensureMode_served s [] s.bus m (by rwa [List.length_nil, Nat.zero_add])

/-- When the write of the switch byte fails, the register is not written (R101, D25). -/
theorem ensureMode_failed {m : Mode} {s : State} {k : IoKind} {d : Nat} (needed : s.bus.mode ≠ m)
    (failure : s.port.verdictAt 0 = .fail k d) :
    ensureMode params m s =
      .stop (.raised (.io k)) (s.setPort (s.port.cut (.write [modeByte params m]) d (.raised (.io k)))) := by
  rw [ensureMode, if_neg needed, emit, transport_of_fail rfl failure]
  rfl

/-- Settles O16: `EnsureMode` served, and with its one write failing. -/
theorem modeSwitchFollowsTheWrite : Obligations.ModeSwitchFollowsTheWrite := by
  unfold Obligations.ModeSwitchFollowsTheWrite
  intro m s
  rw [exec_switchInstr]
  refine ⟨fun served => ?_, fun k d needed failure => ?_⟩
  · rw [switchMode, ensureMode_of_grants served]
    rfl
  · rw [switchMode, ensureMode_failed needed failure]
    rfl

/-- Settles O19: the break is three calls, of which the last sets the rate. -/
theorem breakFillerIsSentAtTheLowRate : Obligations.BreakFillerIsSentAtTheLowRate := by
  unfold Obligations.BreakFillerIsSentAtTheLowRate
  intro s served
  refine ⟨?_, rfl⟩
  obtain ⟨r, calls⟩ := callAll_served s [] s.bus [.setBaud 2400, .write [0x00], .setBaud 9600] [] served
  rw [State.afterCalls_nil, List.nil_append] at calls
  show finish ((emulateBreak params s).map fun _ => .done) = _
  rw [emulateBreak_eq, calls]
  rfl

/-- What follows a served fallback: the answer of the operation, or `E_SYNC` (R106). -/
theorem finish_resync_served {α : Type} (s : State) (cs : List Call) (b : Bus) (f : State → α) (reply : α → Reply)
    (served : s.port.grants (cs.length + 8)) :
    finish (((resync params (s.afterCalls cs b)).bind fun _ t => .ok (f t) t).map reply) =
      .next { s.afterCalls (cs ++ detectCalls) { b with mode := .command } with
        reply := some (
          if detectAccepts (s.port.bytesFrom (readCount cs) 5) then
            reply (f (s.afterCalls (cs ++ detectCalls) { b with mode := .command }))
          else .error .sync) } := by
  rw [resync_served s cs b served, accept_params]
  cases detectAccepts (s.port.bytesFrom (readCount cs) 5) <;> rfl

/-- A status byte in sync (R104, R105). -/
theorem finish_status_inSync {b : Byte} (t : State) (sync : b &&& 0x1C#8 = 0x0C#8) :
    finish ((statusOutcome params b t).map .presence) = .next { t with reply := some (.presence (presenceBits b)) } := by
  rw [statusOutcome_inSync b t (decide_eq_true sync), presenceOf_params]
  rfl

/-- A status byte out of sync, with a served fallback (R105, R106). -/
theorem finish_status_outOfSync {b : Byte} (s : State) (cs : List Call) (bus : Bus) (sync : b &&& 0x1C#8 ≠ 0x0C#8)
    (served : s.port.grants (cs.length + 8)) :
    finish ((statusOutcome params b (s.afterCalls cs bus)).map .presence) =
      .next { s.afterCalls (cs ++ detectCalls) { bus with mode := .command } with
        reply := some (
          if detectAccepts (s.port.bytesFrom (readCount cs) 5) then .presence (presenceBits b) else .error .sync) } := by
  have out : ¬ inSync params b = true := by rwa [inSync_params, decide_eq_true_iff]
  rw [statusOutcome, if_neg out, presenceOf_params]
  exact finish_resync_served s cs bus (fun _ => presenceBits b) .presence served

/-- Settles O20: the two cases of the sync check, on a byte that has been read. -/
theorem statusByteOutcome : Obligations.StatusByteOutcome := by
  unfold Obligations.StatusByteOutcome
  intro b s
  exact ⟨finish_status_inSync s, fun sync served => finish_status_outOfSync s [] s.bus sync (by simpa using served)⟩

/-! ### `BUS_DETECT` (R107, R108) -/

theorem detect_failed (s : State) (cs : List Call) (b : Bus) {j : Nat} {c : Call} {k : IoKind} {d : Nat}
    (hc : detectCalls[j]? = some c) (fails : c.canFail = true) (served : s.port.grants (cs.length + j))
    (failure : s.port.verdictAt (cs.length + j) = .fail k d) :
    detect params (s.afterCalls cs b) =
      .stop (.raised (.io k)) (s.failedAt (cs ++ detectCalls.take j) { b with mode := .command } c k d) := by
  rw [detect_eq, State.afterCalls_setMode, callAll_failed s cs _ [] hc fails served failure]
  rfl

/-- Settles O24: `BUS_DETECT` served, and with any of its calls failing. -/
theorem busDetectExchange : Obligations.BusDetectExchange := by
  unfold Obligations.BusDetectExchange
  refine ⟨fun s served => ?_, fun s j c k d hc fails served failure => ?_⟩
  · have detected := detect_served s [] s.bus (by simpa using served)
    rw [accept_params, State.afterCalls_nil] at detected
    show execBusDetect s = _
    rw [execBusDetect, detected]
    rfl
  · have stopped := detect_failed s [] s.bus hc fails (by simpa using served) (by simpa using failure)
    rw [State.afterCalls_nil] at stopped
    show execBusDetect s = _
    rw [execBusDetect, stopped]
    rfl

/-- Settles O26: `detect_ends` says how it ends, the trace of `detect_runs` which registers it leaves. -/
theorem busDetectNeverRaisesSync : Obligations.BusDetectNeverRaisesSync := by
  unfold Obligations.BusDetectNeverRaisesSync
  intro s
  have ends := detect_ends s
  obtain ⟨es, trace, -⟩ := (detect_runs .normal s).trace
  show ∃ t, execBusDetect s = .next t ∧ _
  rw [execBusDetect]
  cases run : detect params s with
  | ok a t =>
    rw [run] at ends trace
    exact ⟨_, rfl, ends, trace.crc, trace.srch, .inl ⟨a, rfl⟩⟩
  | stop why t =>
    rw [run] at ends trace
    obtain ⟨bus, notSync, notData⟩ := ends
    refine ⟨_, rfl, bus, trace.crc, trace.srch, .inr ?_⟩
    match why with
    | .raised (.io k) => exact .inl ⟨k, rfl⟩
    | .raised .sync => exact absurd rfl notSync
    | .raised (.data r) => exact absurd rfl (notData r)
    | .abandoned => exact .inr rfl

/-! ### `BUS_LEVEL` (R109 to R112) -/

theorem levelCallsAll_eq (target : Level) (m : Mode) : levelCallsAll target m = levelCalls m target ++ detectCalls := rfl

theorem readCount_levelCalls (m : Mode) (target : Level) : readCount (levelCalls m target) = levelBytes target := by
  unfold levelCalls levelBytes
  rw [readCount_append, readCount_modeSwitch]
  split <;> rfl

section
variable {target : Level} {s : State} (change : target ≠ s.bus.level)
include change

/-- A change whose confirmation is accepted (R110, R111). -/
theorem changeLevel_confirmed (confirmed : levelConfirmed target s.port)
    (served : s.port.grants (levelCalls s.bus.mode target).length) :
    changeLevel params target s =
      .ok target (s.afterCalls (levelCalls s.bus.mode target) { mode := .command, level := target }) :=
  changeLevel_accepted s [] s.bus target change (by rwa [List.length_nil, Nat.zero_add])
    ((levelAccept_iff target s.port).2 confirmed)

/-- A change whose confirmation is rejected runs the fallback, with the level kept (R109). -/
theorem changeLevel_unconfirmed (rejected : ¬ levelConfirmed target s.port)
    (served : s.port.grants (levelCalls s.bus.mode target).length) :
    changeLevel params target s =
      (resync params (s.afterCalls (levelCalls s.bus.mode target) { s.bus with mode := .command })).bind
        fun _ t => .ok t.bus.level t := by
  rw [levelCalls_length] at served
  have switched := ensureMode_of_grants (m := .command) (Port.grants_mono served (Nat.le_add_right _ _))
  have notTaken : ¬ levelAccept target (s.port.bytesFrom 0 (levelBytes target)) = true :=
    mt (levelAccept_iff target s.port).1 rejected
  rw [changeLevel, if_neg change, switched, Res.bind_ok, toLevel_served s _ _ target served, readCount_modeSwitch, Res.bind_ok]
  exact if_neg notTaken

variable {j : Nat} {c : Call} {k : IoKind} {d : Nat}

/-- The failing call is the write of the switch byte: `BUS.mode` is not written. -/
theorem changeLevel_switchFailed (hc : (modeSwitchCalls s.bus.mode .command)[j]? = some c) (fails : c.canFail = true)
    (served : s.port.grants j) (failure : s.port.verdictAt j = .fail k d) :
    changeLevel params target s =
      .stop (.raised (.io k)) (s.failedAt ((modeSwitchCalls s.bus.mode .command).take j) s.bus c k d) := by
  have stopped := callAll_failed s [] s.bus [] hc fails (by simpa using served) (by simpa using failure)
  rw [State.afterCalls_nil] at stopped
  rw [changeLevel, if_neg change, ensureMode_eq, stopped]
  rfl

/-- The failing call is one of the exchange: the mode is Command, the level the old one. -/
theorem changeLevel_exchangeFailed (hc : (levelExchange target)[j]? = some c) (fails : c.canFail = true)
    (served : s.port.grants ((modeSwitchCalls s.bus.mode .command).length + j))
    (failure : s.port.verdictAt ((modeSwitchCalls s.bus.mode .command).length + j) = .fail k d) :
    changeLevel params target s =
      .stop (.raised (.io k)) (s.failedAt (modeSwitchCalls s.bus.mode .command ++ (levelExchange target).take j)
        { s.bus with mode := .command } c k d) := by
  have switched := ensureMode_of_grants (m := .command) (Port.grants_mono served (Nat.le_add_right _ _))
  rw [changeLevel, if_neg change, switched, Res.bind_ok, toLevel_eq, callAll_failed s _ _ [] hc fails served failure]
  rfl

/-- The failing call is one of the fallback, after a rejection (R112). -/
theorem changeLevel_fallbackFailed (rejected : ¬ levelConfirmed target s.port) (hc : detectCalls[j]? = some c)
    (fails : c.canFail = true) (served : s.port.grants ((levelCalls s.bus.mode target).length + j))
    (failure : s.port.verdictAt ((levelCalls s.bus.mode target).length + j) = .fail k d) :
    changeLevel params target s =
      .stop (.raised (.io k)) (s.failedAt (levelCalls s.bus.mode target ++ detectCalls.take j)
        { s.bus with mode := .command } c k d) := by
  rw [changeLevel_unconfirmed change rejected (Port.grants_mono served (by omega)), resync,
    detect_failed s _ _ hc fails served failure]
  rfl

/-- Any of the calls failing: it is the write of the switch byte, one of the exchange, or one of the fallback (R160). -/
theorem changeLevel_failed
    (reached : j < (modeSwitchCalls s.bus.mode .command).length + 2 ∨ ¬ levelConfirmed target s.port)
    (hc : (levelCallsAll target s.bus.mode)[j]? = some c) (fails : c.canFail = true) (served : s.port.grants j)
    (failure : s.port.verdictAt j = .fail k d) :
    changeLevel params target s =
      .stop (.raised (.io k)) (s.failedAt ((levelCallsAll target s.bus.mode).take j)
        { s.bus with mode := if j < (modeSwitchCalls s.bus.mode .command).length then s.bus.mode else .command } c k d) := by
  by_cases inSwitch : j < (modeSwitchCalls s.bus.mode .command).length
  · rw [levelCallsAll, List.append_assoc] at hc ⊢
    rw [List.getElem?_append_left inSwitch] at hc
    rw [if_pos inSwitch, List.take_append_of_le_length inSwitch.le]
    exact changeLevel_switchFailed change hc fails served failure
  · rw [if_neg inSwitch]
    by_cases inExchange : j < (modeSwitchCalls s.bus.mode .command).length + 2
    · obtain ⟨i, rfl⟩ := Nat.exists_eq_add_of_le (Nat.not_lt.1 inSwitch)
      have place : i < (levelExchange target).length := by rw [levelExchange_length]; omega
      rw [levelCallsAll, List.append_assoc] at hc ⊢
      rw [List.getElem?_append_right (Nat.le_add_right _ _), Nat.add_sub_cancel_left, List.getElem?_append_left place] at hc
      rw [List.take_length_add_append, List.take_append_of_le_length place.le]
      exact changeLevel_exchangeFailed change hc fails served failure
    · have rejected := reached.resolve_left inExchange
      rw [← levelCalls_length _ target] at inExchange
      obtain ⟨i, rfl⟩ := Nat.exists_eq_add_of_le (Nat.not_lt.1 inExchange)
      rw [levelCallsAll_eq] at hc ⊢
      rw [List.getElem?_append_right (Nat.le_add_right _ _), Nat.add_sub_cancel_left] at hc
      rw [List.take_length_add_append]
      exact changeLevel_fallbackFailed change rejected hc fails served failure

end

/-- Settles O29: the same level, an accepted and a rejected change, and a failing call in each of the three parts. -/
theorem busLevelExchange : Obligations.BusLevelExchange := by
  unfold Obligations.BusLevelExchange
  intro target s
  have run : exec (.busLevel target) s = finish ((changeLevel params target s).map .level) := rfl
  rw [run]
  refine ⟨fun same => ?_, fun change confirmed served => ?_, fun change rejected served => ?_,
    fun j c k d change reached hc fails served failure => ?_⟩
  · rw [changeLevel_same s target same]
    rfl
  · rw [changeLevel_confirmed change confirmed (by rwa [levelCalls_length])]
    rfl
  · rw [changeLevel_unconfirmed change rejected (Port.grants_mono served (by simp)), ← readCount_levelCalls s.bus.mode target]
    exact finish_resync_served s (levelCalls s.bus.mode target) _ (fun t => t.bus.level) .level (by simpa using served)
  · rw [changeLevel_failed change reached hc fails served failure]
    rfl

/-! ### `BUS_RESET` (R103 to R106) -/

theorem cascadeCalls_of_normal {b : Bus} (h : b.level = .normal) : cascadeCalls b = modeSwitchCalls b.mode .command := if_pos h

theorem cascadeCalls_of_ne {b : Bus} (h : b.level ≠ .normal) : cascadeCalls b = levelCalls b.mode .normal := if_neg h

theorem readCount_cascadeCalls (b : Bus) : readCount (cascadeCalls b) = cascadeBytes b := by
  unfold cascadeCalls cascadeBytes
  split
  · exact readCount_modeSwitch _ _
  · rw [readCount_append, readCount_modeSwitch]; rfl

theorem readCount_cascadeCalls_of_ne {b : Bus} (h : b.level ≠ .normal) : readCount (cascadeCalls b) = 2 :=
  (readCount_cascadeCalls b).trans (if_neg h)

/-- Up to the status byte, with a cascade that is not needed or is accepted. -/
theorem resetBus_served {s : State} (accepted : cascadeAccepted s)
    (served : s.port.grants ((cascadeCalls s.bus).length + 2)) :
    resetBus params s =
      statusOutcome params (s.port.byteAt (cascadeBytes s.bus))
        (s.afterCalls (cascadeCalls s.bus ++ [.write [0xC1], .read 1]) readyBus) := by
  by_cases normal : s.bus.level = .normal
  · rw [cascadeCalls_of_normal normal] at served ⊢
    have reset := resetBus_normal s [] s.bus normal (by simpa using served)
    rw [State.afterCalls_nil] at reset
    rw [reset, cascadeBytes, if_pos normal, readyBus, ← normal]
    rfl
  · rw [cascadeCalls_of_ne normal] at served ⊢
    have confirmed : levelConfirmed .normal s.port := accepted.resolve_left normal
    rw [resetBus, changeLevel_confirmed (Ne.symm normal) confirmed (Port.grants_mono served (by omega)), Res.bind_ok,
      resetTail_served s _ _ served, readCount_levelCalls, cascadeBytes, if_neg normal]
    rfl

/-- Settles O27: up to the status byte, then the two cases of the sync check. -/
theorem busResetExchange : Obligations.BusResetExchange := by
  unfold Obligations.BusResetExchange
  intro s accepted served
  have reset : exec .busReset s = finish ((resetBus params s).map .presence) := rfl
  rw [reset, resetBus_served accepted served]
  refine ⟨finish_status_inSync _, fun sync served => ?_⟩
  have read : readCount (cascadeCalls s.bus ++ [.write [0xC1], .read 1]) = cascadeBytes s.bus + 1 := by
    rw [readCount_append, readCount_cascadeCalls]; rfl
  rw [← read]
  exact finish_status_outOfSync s _ readyBus sync (by simpa using served)

/-- A rejected cascade runs the fallback, with the level kept (R103, R106, D31). -/
theorem changeLevel_cascadeRejected {s : State} (level : s.bus.level ≠ .normal) (rejected : ¬ cascadeAccepted s)
    (served : s.port.grants (cascadeCalls s.bus).length) :
    changeLevel params .normal s =
      (resync params (s.afterCalls (cascadeCalls s.bus) { s.bus with mode := .command })).bind
        fun _ t => .ok t.bus.level t := by
  rw [cascadeCalls_of_ne level] at served ⊢
  have unconfirmed : ¬ levelConfirmed .normal s.port := fun confirmed => rejected (.inr confirmed)
  exact changeLevel_unconfirmed (Ne.symm level) unconfirmed served

section
variable {s : State} (level : s.bus.level ≠ .normal) (rejected : ¬ cascadeAccepted s)
include level rejected

/-- A rejected cascade whose fallback fails ends the reset. -/
theorem resetBus_fallbackFailed (served : s.port.grants ((cascadeCalls s.bus).length + 8))
    (failed : detectAccepts (s.port.bytesFrom 2 5) = false) :
    resetBus params s =
      .stop (.raised .sync) (s.afterCalls (cascadeCalls s.bus ++ detectCalls) { s.bus with mode := .command }) := by
  have read := readCount_cascadeCalls_of_ne level
  rw [resetBus, changeLevel_cascadeRejected level rejected (Port.grants_mono served (by omega)),
    resync_served s _ _ served, read, accept_params, failed]
  rfl

/-- A rejected cascade whose fallback succeeds: the reset goes on to its status byte, the level kept. -/
theorem resetBus_fallbackPassed (served : s.port.grants ((cascadeCalls s.bus).length + 10))
    (passed : detectAccepts (s.port.bytesFrom 2 5) = true) :
    resetBus params s =
      statusOutcome params (s.port.byteAt 7)
        (s.afterCalls (cascadeCalls s.bus ++ detectCalls ++ [.write [0xC1], .read 1]) { s.bus with mode := .command }) := by
  have read := readCount_cascadeCalls_of_ne level
  rw [resetBus, changeLevel_cascadeRejected level rejected (Port.grants_mono served (by omega)),
    resync_served s _ _ (Port.grants_mono served (by omega)), read, accept_params, passed, if_pos rfl,
    Res.bind_ok, Res.bind_ok, resetTail_served s _ _ (by simpa [modeSwitchCalls] using served),
    readCount_append, read]
  rfl

end

/-- Settles O28: the fallback fails, or the reset goes on to its status byte and the two cases of the sync check. -/
theorem busResetGoesOnAfterARejectedCascade : Obligations.BusResetGoesOnAfterARejectedCascade := by
  unfold Obligations.BusResetGoesOnAfterARejectedCascade
  intro s level rejected
  have reset : exec .busReset s = finish ((resetBus params s).map .presence) := rfl
  rw [reset]
  refine ⟨fun served failed => ?_, fun served passed sync => ?_, fun served passed sync => ?_⟩
  · rw [resetBus_fallbackFailed level rejected served failed]
    rfl
  · rw [resetBus_fallbackPassed level rejected served passed]
    exact finish_status_inSync _ sync
  · rw [resetBus_fallbackPassed level rejected (Port.grants_mono served (by omega)) passed]
    have read : readCount (cascadeCalls s.bus ++ detectCalls ++ [.write [0xC1], .read 1]) = 8 := by
      rw [readCount_append, readCount_append, readCount_cascadeCalls_of_ne level]; rfl
    have outcome := finish_status_outOfSync s (cascadeCalls s.bus ++ detectCalls ++ [.write [0xC1], .read 1])
      { s.bus with mode := .command } sync (by simpa using served)
    rwa [read] at outcome

end Sys2Proof.Machine

/-! ## The Search Engine: its answers, and what an `E_SYNC` leaves -/

namespace Sys2Proof.Machine

open Host (Outcome)

/-! ### `SEARCH_NEXT` when its calls succeed (R132 to R134) -/

/-- Settles O30: `SEARCH_NEW` is one write of the cursor; a ROM code of `romLength` zeros is eight zero bytes. -/
theorem searchNewWritesAFreshCursor : Obligations.SearchNewWritesAFreshCursor := fun _ _ => rfl

theorem exec_searchNext (s : State) : exec .searchNext s = finish (searchNext params s) := rfl

theorem searchNext_of_exhausted {s : State} (h : s.srch.exhausted = true) : searchNext params s = .ok .noMoreDevices s :=
  if_pos h

theorem searchNext_of_active {s : State} (h : s.srch.exhausted = false) :
    searchNext params s =
      (resetBus params s).bind fun present t => if present then searchExchange params t else .ok .noMoreDevices t :=
  if_neg (by rw [h]; decide)

/-- Settles O31: step 1 of the search returns before the first call. -/
theorem exhaustedSearchDoesNoIO : Obligations.ExhaustedSearchDoesNoIO := by
  unfold Obligations.ExhaustedSearchDoesNoIO
  intro s exhausted
  rw [exec_searchNext, searchNext_of_exhausted exhausted]
  rfl

/-- A `BUS_RESET` that makes no fallback: the cascade is not rejected and the status byte is in sync (R103 to R105). -/
theorem resetBus_inSync {s : State} (accepted : cascadeAccepted s)
    (served : s.port.grants ((cascadeCalls s.bus).length + 2))
    (sync : s.port.byteAt (cascadeBytes s.bus) &&& 0x1C#8 = 0x0C#8) :
    resetBus params s =
      .ok (presenceBits (s.port.byteAt (cascadeBytes s.bus)))
        (s.afterCalls (cascadeCalls s.bus ++ [.write [0xC1], .read 1]) readyBus) := by
  rw [resetBus_served accepted served, statusOutcome_inSync _ _ (decide_eq_true sync), presenceOf_params]

/-- Settles O32: the reset finds no presence, and step 2 of the search returns. -/
theorem emptyBusLeavesTheCursor : Obligations.EmptyBusLeavesTheCursor := by
  unfold Obligations.EmptyBusLeavesTheCursor
  intro s active accepted served sync absent
  rw [exec_searchNext, searchNext_of_active active, resetBus_inSync accepted served sync, absent]
  rfl

/-- The calls of a whole search step: the first reset, the exchange, the trailing reset. -/
theorem searchCalls_eq (s : State) :
    searchCalls s =
      cascadeCalls s.bus ++ [.write [0xC1], .read 1] ++ exchangeCalls s.srch ++ [.write [0xC1], .read 1] :=
  (List.append_assoc _ (exchangeCalls s.srch) _).symm

/-- The premises of step 6 leave only steps 6 to 8 to do, after all the calls. -/
theorem searchNext_reachesStep6 {s : State} (h : SearchReachesStep6 s) :
    searchNext params s = acceptRom params (searchDecoded s) (s.afterCalls (searchCalls s) readyBus) := by
  have served : s.port.grants ((cascadeCalls s.bus ++ [Call.write [0xC1], .read 1]).length + 11) := by
    have all := h.served
    rw [searchCalls, List.length_append] at all
    exact all
  have read : readCount (cascadeCalls s.bus ++ [.write [0xC1], .read 1]) = cascadeBytes s.bus + 1 := by
    rw [readCount_append, readCount_cascadeCalls]; rfl
  have lastSync : inSync params (s.port.byteAt (cascadeBytes s.bus + 1 + 17)) = true := decide_eq_true h.lastSync
  rw [searchNext_of_active h.active, resetBus_inSync h.cascade (Port.grants_mono served (by simp)) h.firstSync,
    h.present, Res.bind_ok, if_pos rfl, searchExchange_served s _ readyBus rfl rfl served (by rwa [read]), read,
    searchCalls_eq]
  rfl

/-- The tests of R133, with the value of `DISCREPANCY_FAIL`. -/
theorem validate_params (rom : List Byte) (lz : Nat) :
    validate params rom lz =
      if crcFold params rom ≠ 0 then some .crc
      else if lz = 63 then some .discrepancy
      else if rom.getD 0 0 = 0 then some .family else none :=
  rfl

/-- A response that passes the three tests of R133. -/
theorem validate_of_passes {rom : List Byte} {lz : Nat} (crc : crcFold params rom = 0) (notFail : lz ≠ 63)
    (family : rom.getD 0 0 ≠ 0) : validate params rom lz = none := by
  rw [validate_params, if_neg (not_not.2 crc), if_neg notFail, if_neg family]

/-- A response that fails one of the three tests of R133: the reason is the first that fails (D40). -/
theorem validate_of_fails {rom : List Byte} {lz : Nat}
    (fails : crcFold params rom ≠ 0 ∨ lz = 63 ∨ rom.getD 0 0 = 0) :
    validate params rom lz =
      some (if crcFold params rom ≠ 0 then .crc else if lz = 63 then .discrepancy else .family) := by
  rw [validate_params]
  by_cases crc : crcFold params rom ≠ 0
  · rw [if_pos crc, if_pos crc]
  · rw [if_neg crc, if_neg crc]
    by_cases failed : lz = 63
    · rw [if_pos failed, if_pos failed]
    · rw [if_neg failed, if_neg failed, if_pos ((fails.resolve_left crc).resolve_left failed)]

/-- The cursor written by an Active engine, in the form of R134: Exhausted exactly when the new position is 0. -/
theorem nextCursor_of_active {k : Srch} (active : k.exhausted = false) (d : Decoded) :
    nextCursor k d =
      { alarmOnly := k.alarmOnly
        rom := d.rom
        lastDiscrepancy := d.lastZero
        lastFamilyDiscrepancy := if d.family = 0 then k.lastFamilyDiscrepancy else d.family
        exhausted := decide (d.lastZero = 0) } := by
  have exhausted : (if d.lastZero = 0 then true else k.exhausted) = decide (d.lastZero = 0) := by
    rw [active]; rfl
  rw [nextCursor, exhausted, ite_not]

/-- Settles O33: all calls are made, the response passes step 6, and step 7 writes the cursor. -/
theorem searchNextYieldsTheRom : Obligations.SearchNextYieldsTheRom := by
  unfold Obligations.SearchNextYieldsTheRom
  intro s reaches crc notFail family
  rw [exec_searchNext, searchNext_reachesStep6 reaches, acceptRom, validate_of_passes crc notFail family,
    ← nextCursor_of_active reaches.active]
  rfl

/-- Settles O34: all calls are made, and step 6 raises the first failing test. -/
theorem searchNextRejectsACorruptResponse : Obligations.SearchNextRejectsACorruptResponse := by
  unfold Obligations.SearchNextRejectsACorruptResponse
  intro s reaches fails
  rw [exec_searchNext, searchNext_reachesStep6 reaches, acceptRom, validate_of_fails fails]
  rfl

/-! ### `SEARCH_NEXT` whatever the transport answers -/

/-- A search step that returns the ROM code of `d`: the code was decoded from a response of 17 bytes by an Active engine and
passed the tests of step 6, and the cursor `k` has moved on to `k'` (R134). -/
structure Yields (k k' : Srch) (d : Decoded) : Prop where
  active : k.exhausted = false
  response : ∃ r : List Byte, r.length = 17 ∧ d = decodeResponse params r
  valid : validate params d.rom d.lastZero = none
  cursor : k' = nextCursor k d

/-- Everything a search step can do to the cursor, with what it delivers (R134, R136): it returns a ROM code and moves
on, or it returns none and the cursor stays. -/
theorem exec_searchNext_cases {s t : State} (h : exec .searchNext s = .next t) :
    (∃ d, Yields s.srch t.srch d ∧ t.reply = some (.rom d.rom)) ∨
      ((∀ rom, t.reply ≠ some (.rom rom)) ∧ t.srch = s.srch) := by
  obtain ⟨es, trace, -⟩ := (searchRead_runs s).trace
  have before := trace.srch
  rw [exec_searchNext, searchNext_eq] at h
  cases read : searchRead params s with
  | stop why u =>
    rw [read] at h before
    cases h
    refine .inr ⟨fun rom => ?_, before⟩
    cases why <;> simp
  | ok o u =>
    rw [read] at h before
    cases o with
    | none =>
      cases h
      exact .inr ⟨by simp, before⟩
    | some d =>
      rw [Res.bind_ok, searchAnswer_some] at h
      obtain ⟨active, response⟩ := searchRead_ok_some read
      rcases acceptRom_cases d u with ⟨valid, e⟩ | ⟨reason, -, e⟩ <;> rw [e] at h <;> cases h
      · exact .inl ⟨d, ⟨active, response, valid, congrArg (nextCursor · d) before⟩, rfl⟩
      · exact .inr ⟨by simp, before⟩

/-- Settles O35: the registers of the cursor that a returned ROM code has moved on, read off. -/
theorem cursorIsWhollyOldOrWhollyNew : Obligations.CursorIsWhollyOldOrWhollyNew := by
  unfold Obligations.CursorIsWhollyOldOrWhollyNew
  intro s t h
  rcases exec_searchNext_cases h with ⟨d, yields, reply⟩ | ⟨reply, kept⟩
  · have cursor := yields.cursor.trans (nextCursor_of_active yields.active d)
    rw [cursor]
    exact ⟨rfl, .inl ⟨d, reply, rfl, rfl, fun found => if_neg found, fun notFound => if_pos notFound, decide_eq_true_iff,
      yields.response⟩⟩
  · exact ⟨congrArg Srch.alarmOnly kept, .inr ⟨reply, kept⟩⟩

/-- Settles O36: a returned code was decoded, and passed the tests of step 6. -/
theorem returnedRomCodesAreValid : Obligations.ReturnedRomCodesAreValid := by
  unfold Obligations.ReturnedRomCodesAreValid
  intro s t rom h returned
  rcases exec_searchNext_cases h with ⟨d, yields, reply⟩ | ⟨noRom, -⟩
  · obtain rfl : d.rom = rom := by rw [reply] at returned; cases returned; rfl
    obtain ⟨crc, -, family⟩ := validate_none yields.valid
    obtain ⟨r, -, rfl⟩ := yields.response
    exact ⟨decodeResponse_rom_length r, crc, family⟩
  · exact absurd returned (noRom rom)

/-! ### What an `E_SYNC` leaves (R136, R160) -/

/-- If the procedure raises `E_SYNC`, `BUS.mode` is Command and the cursor and the CRC register are those of `s`. -/
def SyncLeaves {α : Type} (s : State) (r : Res α) : Prop :=
  ∀ t, r = .stop (.raised .sync) t → t.bus.mode = .command ∧ t.srch = s.srch ∧ t.crc = s.crc

/-- The same of an instruction whose result is an `E_SYNC`. -/
def SyncOutcome (s : State) (o : Outcome State Fault Refusal) : Prop :=
  ∀ t, o = .next t → t.reply = some (.error .sync) → t.bus.mode = .command ∧ t.srch = s.srch ∧ t.crc = s.crc

/-- The clause of `Runs` about `E_SYNC`. -/
theorem Runs.syncLeaves {α : Type} {l : Level} {n : Nat} {s : State} {r : Res α} (h : Runs l n s r) : SyncLeaves s r := by
  rintro t rfl
  obtain ⟨es, trace, -, -, mode⟩ := h
  exact ⟨(mode rfl).1, trace.srch, trace.crc⟩

section
variable {α β : Type} {s : State}

theorem SyncLeaves.ok (a : α) (u : State) : SyncLeaves s (.ok a u) := fun _ h => by cases h

theorem SyncLeaves.bind {r : Res α} {f : α → State → Res β} (hr : SyncLeaves s r) (hf : ∀ a u, SyncLeaves s (f a u)) :
    SyncLeaves s (r.bind f) := by
  cases r with
  | ok a u => exact hf a u
  | stop why u =>
    intro t h
    cases h
    exact hr _ rfl

/-- A call of the transport raises `E_IO` or nothing, in whatever state it is made. -/
theorem emit_syncLeaves (c : Call) (u : State) : SyncLeaves s (emit c u) := by
  unfold emit
  rcases transport_cases c u with e | ⟨k, d, -, e⟩ | ⟨d, e⟩ <;> rw [e]
  · exact SyncLeaves.ok () _
  · exact fun t h => by cases h
  · exact fun t h => by cases h

theorem ensureMode_syncLeaves (m : Mode) (u : State) : SyncLeaves s (ensureMode params m u) := by
  unfold ensureMode
  split
  · exact SyncLeaves.ok () u
  · exact (emit_syncLeaves _ u).bind fun _ v => SyncLeaves.ok () (v.setMode m)

theorem sendIn_syncLeaves (m : Mode) (B : List Byte) (u : State) : SyncLeaves s (sendIn params m B u) :=
  (ensureMode_syncLeaves m u).bind fun _ v => emit_syncLeaves _ v

theorem emulateBreak_syncLeaves (u : State) : SyncLeaves s (emulateBreak params u) :=
  (emit_syncLeaves _ u).bind fun _ v => (emit_syncLeaves _ v).bind fun _ w => emit_syncLeaves _ w

theorem filterResponse_syncLeaves (buf : List Byte) (u : State) : SyncLeaves s (filterResponse params buf u) := by
  rw [filterResponse_quiet]
  exact SyncLeaves.ok buf u

/-- The end of an item: the `E_SYNC` delivered was raised in the procedure, or in what follows it. -/
theorem SyncLeaves.finish_bind {r : Res α} {f : α → State → Res Reply} (hr : SyncLeaves s r)
    (hf : ∀ a u, SyncOutcome s (finish (f a u))) : SyncOutcome s (finish (r.bind f)) := by
  cases r with
  | ok a u => exact hf a u
  | stop why u =>
    intro t h delivered
    cases h
    obtain rfl : why = .raised .sync := by
      cases why with
      | raised e => cases delivered; rfl
      | abandoned => cases delivered
    exact hr u rfl

/-- A result that is no `E_SYNC`. -/
theorem syncOutcome_ok {a : Reply} (ha : a ≠ .error .sync) (u : State) : SyncOutcome s (finish (.ok a u)) := by
  intro t h delivered
  cases h
  exact absurd (Option.some.inj delivered) ha

theorem SyncLeaves.finish_map {r : Res α} {f : α → Reply} (hr : SyncLeaves s r) (hf : ∀ a, f a ≠ .error .sync) :
    SyncOutcome s (finish (r.map f)) :=
  hr.finish_bind fun a u => syncOutcome_ok (hf a) u

theorem syncOutcome_raise_data (reason : DataReason) (u : State) :
    SyncOutcome s (finish (raise (.data reason) u)) := by
  intro t h delivered
  cases h
  cases delivered

theorem syncOutcome_guarded {i : Instr} {o : Outcome State Fault Refusal} (h : SyncOutcome s o) :
    SyncOutcome s (guarded i o) :=
  fun t next => h t (guarded_next next)

/-! ### The instructions -/

theorem sendByte_syncOutcome (m : Mode) (b : Byte) (u : State) : SyncOutcome s (sendByte m b u) :=
  (sendIn_syncLeaves m [b] u).finish_map (by simp)

theorem switchMode_syncOutcome (m : Mode) (u : State) : SyncOutcome s (switchMode m u) :=
  (ensureMode_syncLeaves m u).finish_map (by simp)

theorem execNotification_syncOutcome (b : Byte) (u : State) : SyncOutcome s (execNotification b u) := by
  rw [execNotification, filterLoop_quiet, ite_self]
  exact syncOutcome_ok (by simp) u

theorem execRomCode_syncOutcome (rom : List Byte) (u : State) : SyncOutcome s (execRomCode rom u) := by
  refine syncOutcome_guarded ?_
  cases validate params rom 0 with
  | none => exact syncOutcome_ok (by simp) u
  | some reason => exact syncOutcome_raise_data reason u

/-- Steps 6 to 8 raise at most `E_DATA`, so an `E_SYNC` of the search comes from its calls (R154). -/
theorem searchAnswer_syncOutcome (o : Option Decoded) (u : State) : SyncOutcome s (finish (searchAnswer params o u)) := by
  cases o with
  | none => exact syncOutcome_ok (by simp) u
  | some d =>
    rw [searchAnswer_some]
    rcases acceptRom_cases d u with ⟨-, e⟩ | ⟨reason, -, e⟩ <;> rw [e]
    · exact syncOutcome_ok (by simp) _
    · exact syncOutcome_raise_data reason u

theorem execSearchNext_syncOutcome (s : State) : SyncOutcome s (execSearchNext s) := by
  rw [execSearchNext, searchNext_eq]
  exact (searchRead_runs s).syncLeaves.finish_bind searchAnswer_syncOutcome

end

/-- Settles O47: the reset, the level change, the search and the STATUS row can raise `E_SYNC`, in a procedure with the
properties of `Runs`; no other instruction delivers one. -/
theorem syncErrorLeavesCommandMode : Obligations.SyncErrorLeavesCommandMode := by
  unfold Obligations.SyncErrorLeavesCommandMode
  intro i s
  show SyncOutcome s (exec i s)
  cases i
  case busReset => exact (resetBus_runs s).syncLeaves.finish_map (by simp)
  case busLevel l => exact (changeLevel_runs l s).syncLeaves.finish_map (by simp)
  case searchNext => exact execSearchNext_syncOutcome s
  case status b => exact (statusOutcome_runs .normal b s).syncLeaves.finish_map (by simp)
  case busDetect => exact (detect_runs .normal s).syncLeaves.finish_map (by simp)
  case crcNew | crcCalc | searchNew => exact syncOutcome_ok (by simp) _
  case encode => exact syncOutcome_guarded (syncOutcome_ok (by simp) s)
  case decode => exact syncOutcome_guarded (syncOutcome_ok (by simp [Decoded.reply]) s)
  case reserved9 | reserved10 | reserved11 | reserved12 | reserved13 | reserved14 | reserved15 => exact fun t h => by cases h
  case cmdModeData | cmdModeCommand => exact switchMode_syncOutcome _ s
  case cmdBusReset | cmdReset | cfgSlew | cfgWrite1Low | cfgSampleOffset | probeBaudRead | probeBitTest | cmdPulseTerminate |
      cmdChmodPulse | cfgPulse5VInfinite | cmdSearchRom | cmdSearchAlarm | cmdSearchAccelOn | cmdSearchAccelOff =>
    exact sendByte_syncOutcome _ _ s
  case breakFiller => exact (emulateBreak_syncLeaves s).finish_map (by simp)
  case frameByte | commFormat | configFormat => exact syncOutcome_guarded (sendByte_syncOutcome _ _ s)
  case resp5 => exact syncOutcome_guarded ((filterResponse_syncLeaves _ s).finish_map (by simp))
  case resp17 => exact syncOutcome_guarded ((filterResponse_syncLeaves _ s).finish_map (by simp [Decoded.reply]))
  case confirmNormal | confirmPulse => exact (filterResponse_syncLeaves _ s).finish_map (by simp)
  case notification b => exact execNotification_syncOutcome b s
  case romCode rom => exact execRomCode_syncOutcome rom s

end Sys2Proof.Machine

/-! ## Which operations reach the registers and the port, and what the host reads -/

namespace Sys2Proof.Machine

/-! ### What an operation leaves unchanged (R145) -/

/-- Only the CRC8 unit writes `CRC.state` (R11). -/
theorem exec_keeps_crc {i : Instr} {s t : State} (h : exec i s = .next t) (hn : i ≠ .crcNew) (hc : ∀ b, i ≠ .crcCalc b) :
    t.crc = s.crc := by
  rw [← fixed_of_mapNext (exec_ignores_crc hn hc s.crc.state s) rfl h]
  rfl

/-- The CRC8 unit, the codec and `SEARCH_NEW` reach no transport and write no register of the Bus Controller. -/
theorem exec_keeps_bus_port {i : Instr} {s t : State} (h : exec i s = .next t) (host : isHostOp i = true)
    (hr : i ≠ .busReset) (hd : i ≠ .busDetect) (hn : i ≠ .searchNext) (hl : ∀ l, i ≠ .busLevel l) :
    t.bus = s.bus ∧ t.port = s.port := by
  cases i
  case crcNew | crcCalc | searchNew => cases h; exact ⟨rfl, rfl⟩
  case encode | decode =>
    have same := finish_agrees (guarded_next h)
    exact ⟨same.bus, same.port⟩
  case busReset => exact absurd rfl hr
  case busDetect => exact absurd rfl hd
  case busLevel l => exact absurd rfl (hl l)
  case searchNext => exact absurd rfl hn
  all_goals cases host

/-- Settles O41: an instruction other than the ones named keeps the CRC register, the cursor, the controller and the port. -/
theorem registersChangeOnlyThroughTheirOperations : Obligations.RegistersChangeOnlyThroughTheirOperations := by
  unfold Obligations.RegistersChangeOnlyThroughTheirOperations
  intro i s t h
  refine ⟨fun changed => ?_, fun changed => ?_, fun host changed => ?_⟩
  · by_contra! ⟨hn, hc⟩
    exact changed (exec_keeps_crc h hn hc)
  · by_contra! ⟨hn, hw⟩
    exact changed (exec_keeps_cursor h hn hw)
  · by_contra! ⟨hr, hd, hn, hl⟩
    obtain ⟨bus, port⟩ := exec_keeps_bus_port h host hr hd hn hl
    exact changed.elim (absurd bus) (absurd port)

/-! ### The host's reads -/

theorem bit_cons (b : Byte) (B : List Byte) (i : Nat) :
    bit (b :: B) i = if i < 8 then b.getLsbD i else bit B (i - 8) := by
  unfold bit
  split
  case isTrue low => rw [Nat.div_eq_of_lt low, Nat.mod_eq_of_lt low, List.getD_cons_zero]
  case isFalse high =>
    obtain ⟨j, rfl⟩ := Nat.exists_eq_add_of_le (Nat.le_of_not_lt high)
    rw [Nat.add_sub_cancel_left, Nat.add_div_left j (by decide), Nat.add_mod_left, List.getD_cons_succ]

/-- Bit `i` of the number is logical bit `i` of the code, byte 0 the least significant (R40). -/
theorem romNumber_testBit (rom : List Byte) (i : Nat) : (romNumber rom).testBit i = bit rom i := by
  induction rom generalizing i with
  | nil => simp [romNumber, bit]
  | cons b rom ih =>
    calc (romNumber (b :: rom)).testBit i
      _ = (2 ^ 8 * romNumber rom + b.toNat).testBit i := by rw [Nat.add_comm]; rfl
      _ = if i < 8 then b.toNat.testBit i else (romNumber rom).testBit (i - 8) := Nat.testBit_two_pow_mul_add _ b.isLt i
      _ = bit (b :: rom) i := by rw [ih, bit_cons]; rfl

theorem Mode.code_eq_ite (m : Mode) : m.code = if m = .command then 0 else 1 := by cases m <;> rfl

theorem code_toNat_eq_levelNumber (l : Level) : l.code.toNat = levelNumber l := by cases l <;> rfl

/-- Settles O53: the codes of R27, and the ROM register bit by bit. -/
theorem hostReadsEveryRegister : Obligations.HostReadsEveryRegister := by
  unfold Obligations.HostReadsEveryRegister
  intro s
  exact ⟨rfl, s.bus.mode.code_eq_ite, code_toNat_eq_levelNumber s.bus.level, Bool.cond_eq_ite .., Bool.cond_eq_ite ..,
    rfl, rfl, fun _ i _ => romNumber_testBit s.srch.rom i⟩

end Sys2Proof.Machine

/-! ## How an instruction ends: the events of the transport, and what is delivered -/

namespace Sys2Proof.Machine

open Host (Outcome)

/-! ### The errors (R150) -/

/-- Settles O54: the codes and the `info` values of the model, read off. -/
theorem errorCodesAndInfo : Obligations.ErrorCodesAndInfo :=
  ⟨rfl, rfl, rfl, fun _ => rfl, rfl, rfl, rfl, rfl, rfl, rfl⟩

/-! ### Every well-formed instruction goes on (R160, R161) -/

/-- Settles O38: a guard lets a well-formed instruction through, and the end of a procedure is a next state. -/
theorem everyWellFormedInstructionGoesOn : Obligations.EveryWellFormedInstructionGoesOn := by
  unfold Obligations.EveryWellFormedInstructionGoesOn
  intro i s wf notReserved
  cases i
  case reserved9 | reserved10 | reserved11 | reserved12 | reserved13 | reserved14 | reserved15 =>
    exact absurd (by simp) notReserved
  case encode | decode | frameByte | commFormat | configFormat | resp5 | resp17 | romCode =>
    exact ⟨_, guarded_of_wellFormed wf _⟩
  all_goals exact ⟨_, rfl⟩

/-! ### The events that go with a result (R36, R160, R163) -/

/-- From `s` to `t` the port made one call for each of the events `es`. -/
structure Adds (s t : State) (es : List Event) : Prop where
  history : t.port.history = s.port.history ++ es
  calls : t.port.calls = s.port.calls + es.length

/-- The events of an instruction that delivers `a`: all calls succeeded, or `a` is what a stop at a call delivers, and
that call is the last and the only one cut short. -/
def ReplyEvents (a : Option Reply) (es : List Event) : Prop :=
  (endsAtACall a = false ∧ noCuts es) ∨
    ∃ why es' c d, endsAtACall a = true ∧ why.reply = a ∧ noCuts es' ∧ es = es' ++ [.cut c d why]

/-- The calls of a procedure started in `s` succeeded, up to the one that stopped it. -/
def Precise {α : Type} (s : State) : Res α → Prop
  | .ok _ t => ∃ es, Adds s t es ∧ noCuts es
  | .stop why t => ∃ es, Adds s t es ∧ ReplyEvents why.reply es

/-- The same of an instruction that goes on, with what it delivers. -/
def PreciseOutcome (s : State) (o : Outcome State Fault Refusal) : Prop :=
  ∀ t, o = .next t → ∃ es, Adds s t es ∧ ReplyEvents t.reply es

theorem Adds.of_port_eq {s t : State} (h : t.port = s.port) : Adds s t [] :=
  ⟨by rw [h, List.append_nil], congrArg Port.calls h⟩

theorem Adds.trans {s t u : State} {as bs : List Event} (h : Adds s t as) (k : Adds t u bs) : Adds s u (as ++ bs) where
  history := by rw [k.history, h.history, List.append_assoc]
  calls := by rw [k.calls, h.calls, List.length_append, Nat.add_assoc]

theorem Trace.adds {l : Level} {s t : State} {es : List Event} (h : Trace l s t es) : Adds s t es := ⟨h.history, h.calls⟩

theorem noCuts_nil : noCuts [] := by simp [noCuts]

theorem not_noCuts_append_cut {es : List Event} {c : Call} {d : Nat} {why : Stop} : ¬ noCuts (es ++ [.cut c d why]) :=
  fun h => absurd (h (.cut c d why) (by simp)) (by simp [Event.isCut])

theorem Stop.reply_eq_none {why : Stop} : why.reply = none ↔ why = .abandoned := by cases why <;> simp

theorem ReplyEvents.append {a : Option Reply} {as bs : List Event} (quiet : noCuts as) (h : ReplyEvents a bs) :
    ReplyEvents a (as ++ bs) := by
  rcases h with ⟨ha, hb⟩ | ⟨why, es, c, d, ha, hw, hb, rfl⟩
  · exact .inl ⟨ha, noCuts_append quiet hb⟩
  · exact .inr ⟨why, as ++ es, c, d, ha, hw, noCuts_append quiet hb, (List.append_assoc ..).symm⟩

theorem stopShape.replyEvents {why : Stop} {es : List Event} (h : stopShape why es) : ReplyEvents why.reply es := by
  match why, h with
  | .raised (.io _), ⟨es', c, d, e, quiet⟩ => exact .inr ⟨_, es', c, d, rfl, rfl, quiet, e⟩
  | .abandoned, ⟨es', c, d, e, quiet⟩ => exact .inr ⟨_, es', c, d, rfl, rfl, quiet, e⟩
  | .raised .sync, quiet => exact .inl ⟨rfl, quiet⟩

theorem ReplyEvents.quiet {a : Option Reply} {es : List Event} (h : ReplyEvents a es) (ha : endsAtACall a = false) :
    noCuts es := by
  rcases h with ⟨-, quiet⟩ | ⟨_, _, _, _, atCall, -⟩
  · exact quiet
  · rw [atCall] at ha; cases ha

theorem ReplyEvents.last_isCut {a : Option Reply} {es : List Event} (h : ReplyEvents a es) (ha : endsAtACall a = true) :
    ∃ es' e, es = es' ++ [e] ∧ e.isCut = true ∧ noCuts es' := by
  rcases h with ⟨notAtCall, -⟩ | ⟨why, es', c, d, -, -, quiet, rfl⟩
  · rw [ha] at notAtCall; cases notAtCall
  · exact ⟨es', .cut c d why, rfl, rfl, quiet⟩

/-- Nothing is delivered only after a call at which the host dropped the operation (R163). -/
theorem ReplyEvents.of_none {es : List Event} (h : ReplyEvents none es) : ∃ es' c d, es = es' ++ [.cut c d .abandoned] := by
  rcases h with ⟨ha, -⟩ | ⟨why, es', c, d, -, hw, -, e⟩
  · cases ha
  · obtain rfl := Stop.reply_eq_none.1 hw
    exact ⟨es', c, d, e⟩

/-- After a call at which the host dropped the operation nothing is delivered, and the calls before it succeeded (R163). -/
theorem ReplyEvents.of_abandoned {a : Option Reply} {es : List Event} {c : Call} {d : Nat}
    (h : ReplyEvents a (es ++ [.cut c d .abandoned])) : a = none ∧ noCuts es := by
  rcases h with ⟨-, quiet⟩ | ⟨why, es', c', d', -, hw, quiet, e⟩
  · exact absurd quiet not_noCuts_append_cut
  · obtain ⟨rfl, last⟩ := List.append_inj' e rfl
    cases last
    exact ⟨hw.symm, quiet⟩

/-! ### The procedures -/

section
variable {α β : Type} {s : State}

/-- The clauses of `Runs` about the port. -/
theorem Runs.precise {l : Level} {n : Nat} {r : Res α} (h : Runs l n s r) : Precise s r := by
  cases r with
  | ok a t =>
    obtain ⟨es, trace, -, quiet, -⟩ := h
    exact ⟨es, trace.adds, quiet⟩
  | stop why t =>
    obtain ⟨es, trace, -, shape, -⟩ := h
    exact ⟨es, trace.adds, shape.replyEvents⟩

theorem Precise.ok {u : State} (a : α) (h : u.port = s.port) : Precise s (.ok a u) := ⟨[], .of_port_eq h, noCuts_nil⟩

theorem Precise.bind {r : Res α} {f : α → State → Res β} (hr : Precise s r) (hf : ∀ a u, Precise u (f a u)) :
    Precise s (r.bind f) := by
  cases r with
  | stop why u => exact hr
  | ok a u =>
    obtain ⟨as, before, quiet⟩ := hr
    have after := hf a u
    rw [Res.bind_ok]
    cases h : f a u with
    | ok b v =>
      rw [h] at after
      obtain ⟨bs, more, quiet'⟩ := after
      exact ⟨as ++ bs, before.trans more, noCuts_append quiet quiet'⟩
    | stop why v =>
      rw [h] at after
      obtain ⟨bs, more, last⟩ := after
      exact ⟨as ++ bs, before.trans more, last.append quiet⟩

theorem emit_precise (c : Call) (s : State) : Precise s (emit c s) := by
  unfold emit
  rcases transport_cases c s with e | ⟨k, d, -, e⟩ | ⟨d, e⟩ <;> rw [e]
  · obtain ⟨ev, history, quiet⟩ := s.port.complete_history c
    exact ⟨[ev], ⟨history, s.port.complete_calls c⟩, by simpa [noCuts] using quiet⟩
  · obtain ⟨history, calls⟩ := s.port.cut_history c d (.raised (.io k))
    exact ⟨_, ⟨history, calls⟩, .inr ⟨_, [], c, _, rfl, rfl, noCuts_nil, rfl⟩⟩
  · obtain ⟨history, calls⟩ := s.port.cut_history c d .abandoned
    exact ⟨_, ⟨history, calls⟩, .inr ⟨_, [], c, _, rfl, rfl, noCuts_nil, rfl⟩⟩

theorem sendIn_precise (m : Mode) (B : List Byte) (s : State) : Precise s (sendIn params m B s) :=
  (ensureMode_runs .normal m s).precise.bind fun _ u => emit_precise _ u

theorem emulateBreak_precise (s : State) : Precise s (emulateBreak params s) :=
  (emit_precise _ s).bind fun _ u => (emit_precise _ u).bind fun _ v => emit_precise _ v

theorem filterResponse_precise (buf : List Byte) (s : State) : Precise s (filterResponse params buf s) := by
  rw [filterResponse_quiet]
  exact Precise.ok buf rfl

/-! ### The end of an instruction -/

theorem preciseOutcome_ok {a : Reply} {u : State} (ha : endsAtACall (some a) = false) (h : u.port = s.port) :
    PreciseOutcome s (finish (.ok a u)) := by
  intro t next
  cases next
  exact ⟨[], .of_port_eq h, .inl ⟨ha, noCuts_nil⟩⟩

theorem preciseOutcome_raise_data (reason : DataReason) (s : State) :
    PreciseOutcome s (finish (raise (.data reason) s)) := by
  intro t next
  cases next
  exact ⟨[], .of_port_eq rfl, .inl ⟨rfl, noCuts_nil⟩⟩

theorem preciseOutcome_guarded {i : Instr} {o : Outcome State Fault Refusal} (h : PreciseOutcome s o) :
    PreciseOutcome s (guarded i o) :=
  fun t next => h t (guarded_next next)

theorem Precise.finish_bind {r : Res α} {f : α → State → Res Reply} (hr : Precise s r)
    (hf : ∀ a u, PreciseOutcome u (finish (f a u))) : PreciseOutcome s (finish (r.bind f)) := by
  intro t next
  cases r with
  | ok a u =>
    obtain ⟨as, before, quiet⟩ := hr
    obtain ⟨bs, more, last⟩ := hf a u t next
    exact ⟨as ++ bs, before.trans more, last.append quiet⟩
  | stop why u =>
    cases next
    obtain ⟨es, added, last⟩ := hr
    exact ⟨es, ⟨added.history, added.calls⟩, last⟩

theorem Precise.finish_map {r : Res α} {f : α → Reply} (hr : Precise s r) (hf : ∀ a, endsAtACall (some (f a)) = false) :
    PreciseOutcome s (finish (r.map f)) :=
  hr.finish_bind fun a _ => preciseOutcome_ok (hf a) rfl

end

/-! ### The instructions -/

theorem sendByte_preciseOutcome (m : Mode) (b : Byte) (s : State) : PreciseOutcome s (sendByte m b s) :=
  (sendIn_precise m [b] s).finish_map fun _ => rfl

theorem switchMode_preciseOutcome (m : Mode) (s : State) : PreciseOutcome s (switchMode m s) :=
  (ensureMode_runs .normal m s).precise.finish_map fun _ => rfl

theorem execNotification_preciseOutcome (b : Byte) (s : State) : PreciseOutcome s (execNotification b s) := by
  rw [execNotification, filterLoop_quiet, ite_self]
  exact preciseOutcome_ok rfl rfl

theorem execRomCode_preciseOutcome (rom : List Byte) (s : State) : PreciseOutcome s (execRomCode rom s) := by
  refine preciseOutcome_guarded ?_
  cases validate params rom 0 with
  | none => exact preciseOutcome_ok rfl rfl
  | some reason => exact preciseOutcome_raise_data reason s

/-- Steps 6 to 8 of `SEARCH_NEXT` make no call, and raise at most `E_DATA` (R132, R133). -/
theorem searchAnswer_preciseOutcome (o : Option Decoded) (s : State) :
    PreciseOutcome s (finish (searchAnswer params o s)) := by
  cases o with
  | none => exact preciseOutcome_ok rfl rfl
  | some d =>
    rw [searchAnswer_some]
    rcases acceptRom_cases d s with ⟨-, e⟩ | ⟨reason, -, e⟩ <;> rw [e]
    · exact preciseOutcome_ok rfl rfl
    · exact preciseOutcome_raise_data reason s

theorem execSearchNext_preciseOutcome (s : State) : PreciseOutcome s (execSearchNext s) := by
  rw [execSearchNext, searchNext_eq]
  exact (searchRead_runs s).precise.finish_bind searchAnswer_preciseOutcome

/-- Every instruction, in every state: its calls succeeded, up to the one whose stop it delivers. -/
theorem exec_preciseOutcome (i : Instr) (s : State) : PreciseOutcome s (exec i s) := by
  cases i
  case crcNew | crcCalc | searchNew => exact preciseOutcome_ok rfl rfl
  case encode | decode => exact preciseOutcome_guarded (preciseOutcome_ok rfl rfl)
  case busReset => exact (resetBus_runs s).precise.finish_map fun _ => rfl
  case busDetect => exact (detect_runs .normal s).precise.finish_map fun _ => rfl
  case busLevel l => exact (changeLevel_runs l s).precise.finish_map fun _ => rfl
  case searchNext => exact execSearchNext_preciseOutcome s
  case reserved9 | reserved10 | reserved11 | reserved12 | reserved13 | reserved14 | reserved15 => exact fun t h => by cases h
  case cmdModeData | cmdModeCommand => exact switchMode_preciseOutcome _ s
  case cmdBusReset | cmdReset | cfgSlew | cfgWrite1Low | cfgSampleOffset | probeBaudRead | probeBitTest | cmdPulseTerminate |
      cmdChmodPulse | cfgPulse5VInfinite | cmdSearchRom | cmdSearchAlarm | cmdSearchAccelOn | cmdSearchAccelOff =>
    exact sendByte_preciseOutcome _ _ s
  case breakFiller => exact (emulateBreak_precise s).finish_map fun _ => rfl
  case frameByte | commFormat | configFormat => exact preciseOutcome_guarded (sendByte_preciseOutcome _ _ s)
  case status b => exact (statusOutcome_runs .normal b s).precise.finish_map fun _ => rfl
  case resp5 | resp17 => exact preciseOutcome_guarded ((filterResponse_precise _ s).finish_map fun _ => rfl)
  case confirmNormal | confirmPulse => exact (filterResponse_precise _ s).finish_map fun _ => rfl
  case notification b => exact execNotification_preciseOutcome b s
  case romCode rom => exact execRomCode_preciseOutcome rom s

/-- Settles O43: the two cases of `ReplyEvents`, for the events every instruction adds. -/
theorem errorsArePreciseAtTransportEvents : Obligations.ErrorsArePreciseAtTransportEvents := by
  unfold Obligations.ErrorsArePreciseAtTransportEvents
  intro i s t h
  obtain ⟨es, added, ended⟩ := exec_preciseOutcome i s t h
  exact ⟨es, added.history, added.calls, ended.last_isCut, ended.quiet⟩

/-! ### A dropped operation (R163) -/

/-- A host operation that delivers nothing leaves every register but the Bus Controller's, and the host side. -/
theorem exec_dropped_keeps {i : Instr} {s t : State} (host : isHostOp i = true) (h : exec i s = .next t)
    (dropped : t.reply = none) : t.crc = s.crc ∧ t.srch = s.srch ∧ t.requests = s.requests ∧ t.item = s.item := by
  have crc : t.crc = s.crc :=
    exec_keeps_crc h (by rintro rfl; cases h; cases dropped) (by rintro b rfl; cases h; cases dropped)
  have srch : t.srch = s.srch := by
    by_cases hn : i = .searchNext
    · subst hn
      rcases exec_searchNext_cases h with ⟨d, -, reply⟩ | ⟨-, kept⟩
      · rw [dropped] at reply; cases reply
      · exact kept
    · exact exec_keeps_cursor h hn (by rintro a rfl; cases h; cases dropped)
  obtain ⟨r, runs, same⟩ := exec_hostOp_runs host h
  obtain ⟨es, trace, -⟩ := runs.trace
  exact ⟨crc, srch, same.requests.trans trace.requests, same.item.trans trace.item⟩

/-- Settles O48: `ReplyEvents` ties the missing result to the call at which the host dropped the operation. -/
theorem abandonedOperationDeliversNothing : Obligations.AbandonedOperationDeliversNothing := by
  unfold Obligations.AbandonedOperationDeliversNothing
  intro i s t host h
  obtain ⟨added, adds, ended⟩ := exec_preciseOutcome i s t h
  have dropped : ∀ es c d, t.port.history = s.port.history ++ es ++ [.cut c d .abandoned] → t.reply = none ∧ noCuts es := by
    intro es c d hist
    rw [adds.history, List.append_assoc] at hist
    obtain rfl := List.append_cancel_left hist
    exact ended.of_abandoned
  refine ⟨⟨fun noReply => ?_, fun ⟨es, c, d, hist⟩ => (dropped es c d hist).1⟩, fun es c d hist => ?_⟩
  · rw [noReply] at ended
    obtain ⟨es, c, d, rfl⟩ := ended.of_none
    exact ⟨es, c, d, by rw [adds.history, List.append_assoc]⟩
  · obtain ⟨noReply, quiet⟩ := dropped es c d hist
    obtain ⟨crc, srch, requests, item⟩ := exec_dropped_keeps host h noReply
    exact ⟨crc, srch, requests, item, quiet⟩

end Sys2Proof.Machine

/-! ## How many calls an instruction makes (R192) -/

namespace Sys2Proof.Machine

open Host (Outcome)

/-! ### All the calls, the mode before the operation taken into account

A mode switch costs a call only where the mode differs; the operation starts with at most one such switch. -/

theorem modeSwitchCalls_length (m0 m : Mode) : (modeSwitchCalls m0 m).length = if m0 = m then 0 else 1 := by
  cases m0 <;> cases m <;> rfl

theorem ensureMode_runs_counted (l : Level) (m : Mode) (s : State) :
    Runs l (modeSwitchCalls s.bus.mode m).length s (ensureMode params m s) := by
  rw [modeSwitchCalls_length]
  split
  · next same =>
    rw [ensureMode, if_pos same]
    exact Runs.pure l s ()
  · exact ensureMode_runs l m s

/-- `BUS_LEVEL` (R109): after the mode switch, two calls of the exchange and eight of a fallback. -/
theorem changeLevel_runs_counted (target : Level) (s : State) :
    Runs target ((modeSwitchCalls s.bus.mode .command).length + 10) s (changeLevel params target s) := by
  unfold changeLevel
  split
  · exact (Runs.pure target s _).mono (Nat.zero_le _)
  · refine (ensureMode_runs_counted target .command s).bind fun _ t switched => ?_
    refine Runs.bind (n := 2) (m := 8) (toLevel_runs target target t (by rw [ensureMode_ok_bus switched])) fun ok u _ => ?_
    split
    · exact (Runs.setLevel target u target).mono (Nat.zero_le _)
    · exact (resync_runs target u).bind (m := 0) fun _ v _ => Runs.pure target v _

theorem transport_ok_bus {c : Call} {s t : State} {a : List Byte} (h : transport c s = .ok a t) : t.bus = s.bus :=
  emit_ok_bus (c := c) (a := ()) (by rw [emit, h]; rfl)

theorem callAll_ok_bus {cs : List Call} {a r : List Byte} {s t : State} (h : callAll cs a s = .ok r t) : t.bus = s.bus := by
  induction cs generalizing a s with
  | nil => cases h; rfl
  | cons c cs ih =>
    obtain ⟨_, u, call, rest⟩ := Res.bind_eq_ok h
    exact (ih rest).trans (transport_ok_bus call)

theorem toLevel_ok_bus {target : Level} {s t : State} {ok : Bool} (h : toLevel params target s = .ok ok t) :
    t.bus = s.bus := by
  rw [toLevel_eq] at h
  obtain ⟨r, u, calls, h⟩ := Res.bind_eq_ok h
  cases h
  exact callAll_ok_bus calls

/-- A level change that returns has left the chip in Command mode, confirmed or after a fallback (R106, R109). -/
theorem changeLevel_ok_mode {target : Level} {s t : State} {l : Level} (differs : target ≠ s.bus.level)
    (h : changeLevel params target s = .ok l t) : t.bus.mode = .command := by
  rw [changeLevel, if_neg differs] at h
  obtain ⟨_, u, switched, h⟩ := Res.bind_eq_ok h
  obtain ⟨ok, v, exchanged, h⟩ := Res.bind_eq_ok h
  have command : v.bus.mode = .command := by rw [toLevel_ok_bus exchanged, ensureMode_ok_bus switched]
  cases ok with
  | true => cases h; exact command
  | false =>
    obtain ⟨_, w, resynced, h⟩ := Res.bind_eq_ok h
    cases h
    rw [resync_ok_bus resynced]

/-- `BUS_RESET` after its level change: the reset command and the status byte (R103). -/
def resetTail (s : State) : Res Bool :=
  (sendIn params .command [cmdBusReset params] s).bind fun _ t =>
  (transport (.read 1) t).bind fun r u => statusOutcome params (r.getD 0 0) u

theorem resetBus_eq (s : State) : resetBus params s = (changeLevel params .normal s).bind fun _ t => resetTail t := rfl

theorem resetTail_runs (s : State) :
    Runs .normal ((modeSwitchCalls s.bus.mode .command).length + 10) s (resetTail s) := by
  have noSwitch : ∀ b ∈ [cmdBusReset params], chipModeByte .command b = .command := by decide
  have sent : Runs .normal ((modeSwitchCalls s.bus.mode .command).length + 1) s
      (sendIn params .command [cmdBusReset params] s) :=
    (ensureMode_runs_counted .normal .command s).bind fun _ t switched =>
      write_runs .normal t _ (by decide) (by rw [ensureMode_ok_bus switched]; exact noSwitch)
  exact sent.bind (m := 9) fun _ t _ => (read_runs .normal t 1).bind fun r u _ => statusOutcome_runs .normal _ u

/-- `BUS_RESET` (R103), with two fallbacks (D31): the tail needs no second mode switch. -/
theorem resetBus_runs_counted (s : State) :
    Runs .normal ((modeSwitchCalls s.bus.mode .command).length + 20) s (resetBus params s) := by
  rw [resetBus_eq]
  by_cases normal : s.bus.level = .normal
  · rw [changeLevel_same s .normal normal.symm, Res.bind_ok]
    exact (resetTail_runs s).mono (by omega)
  · refine (changeLevel_runs_counted .normal s).bind (m := 10) fun _ t h => ?_
    have tail := resetTail_runs t
    rwa [changeLevel_ok_mode (Ne.symm normal) h] at tail

/-- Step 5 of the search (R132): the trailing reset starts in Command mode. -/
theorem readSearchResponse_runs_counted (s : State) : Runs .normal 23 s (readSearchResponse params s) := by
  unfold readSearchResponse
  refine Runs.bind (n := 1) (m := 22) (readFiltered_runs .normal s 17) fun r t _ => ?_
  refine Runs.bind (n := 2) (m := 20) (sendIn_runs .normal .command _ t (by decide) (by decide)) fun _ u sent => ?_
  have reset := resetBus_runs_counted u
  rw [sendIn_ok_bus sent] at reset
  exact Runs.bind (n := 20) (m := 0) reset fun _ v _ => Runs.pure .normal v _

/-- Steps 1 to 5 of the search (R132): 21 calls of the first reset, 6 up to the frame, 23 from the response on. -/
theorem searchRead_runs_counted (s : State) : Runs .normal 50 s (searchRead params s) := by
  have first : Runs .normal 21 s (resetBus params s) :=
    (resetBus_runs_counted s).mono (by rw [modeSwitchCalls_length]; split <;> omega)
  unfold searchRead
  split
  · exact (Runs.pure .normal s _).mono (by omega)
  · refine first.bind (m := 29) fun present t _ => ?_
    split
    · refine Runs.bind (n := 4) (m := 25) (selectSearch_runs t) fun _ u _ => ?_
      exact Runs.bind (n := 2) (m := 23) (sendFrame_runs u (encodeFrame_frame _ _)) fun _ v _ =>
        (readSearchResponse_runs_counted v).map some
    · exact (Runs.pure .normal t _).mono (by omega)

/-! ### The calls of an instruction -/

/-- A procedure started in `s` makes at most `n` calls. -/
def CallsWithin {α : Type} (n : Nat) (s : State) (r : Res α) : Prop := r.state.port.calls ≤ s.port.calls + n

/-- So does an instruction that goes on, with the bound 50. -/
def OutcomeWithin (s : State) (o : Outcome State Fault Refusal) : Prop :=
  ∀ t, o = .next t → t.port.calls ≤ s.port.calls + 50

section
variable {α β : Type} {n m : Nat} {s : State} {r : Res α}

theorem Runs.callsWithin {l : Level} (h : Runs l n s r) : CallsWithin n s r := by
  cases r with
  | ok a t =>
    obtain ⟨es, trace, length, -⟩ := h
    exact trace.calls.trans_le (by omega)
  | stop why t =>
    obtain ⟨es, trace, length, -⟩ := h
    exact trace.calls.trans_le (by omega)

theorem CallsWithin.bind {f : α → State → Res β} (hr : CallsWithin n s r) (hf : ∀ a t, CallsWithin m t (f a t)) :
    CallsWithin (n + m) s (r.bind f) := by
  cases r with
  | ok a t => exact (hf a t).trans (by have : t.port.calls ≤ _ := hr; omega)
  | stop why t => exact hr.trans (by omega)

theorem CallsWithin.map (f : α → β) (hr : CallsWithin n s r) : CallsWithin n s (r.map f) := by
  rwa [CallsWithin, Res.state_map]

theorem CallsWithin.finish {r : Res Reply} (hr : CallsWithin n s r) (hn : n ≤ 50) : OutcomeWithin s (finish r) := by
  intro t h
  rw [(finish_agrees h).port]
  exact hr.trans (by omega)

/-- No call at all. -/
theorem outcomeWithin_still {r : Res Reply} (still : r.state.port = s.port) : OutcomeWithin s (finish r) :=
  CallsWithin.finish (n := 0) (Nat.le_of_eq (congrArg Port.calls still)) (by omega)

theorem outcomeWithin_guarded {i : Instr} {o : Outcome State Fault Refusal} (h : OutcomeWithin s o) :
    OutcomeWithin s (guarded i o) :=
  fun t next => h t (guarded_next next)

end

theorem transport_callsWithin (c : Call) (s : State) : CallsWithin 1 s (transport c s) := by
  rcases transport_cases c s with e | ⟨k, d, -, e⟩ | ⟨d, e⟩ <;> rw [e]
  · exact Nat.le_of_eq (s.port.complete_calls c)
  · exact Nat.le_of_eq (s.port.cut_history c d _).2
  · exact Nat.le_of_eq (s.port.cut_history c d _).2

theorem emit_callsWithin (c : Call) (s : State) : CallsWithin 1 s (emit c s) := (transport_callsWithin c s).map _

theorem sendByte_outcomeWithin (m : Mode) (b : Byte) (s : State) : OutcomeWithin s (sendByte m b s) :=
  (((ensureMode_runs .normal m s).callsWithin.bind fun _ t => emit_callsWithin _ t).map _).finish (by omega)

theorem switchMode_outcomeWithin (m : Mode) (s : State) : OutcomeWithin s (switchMode m s) :=
  ((ensureMode_runs .normal m s).callsWithin.map _).finish (by omega)

theorem emulateBreak_callsWithin (s : State) : CallsWithin 3 s (emulateBreak params s) :=
  (emit_callsWithin _ s).bind fun _ t => (emit_callsWithin _ t).bind (m := 1) fun _ u => emit_callsWithin _ u

theorem filter_outcomeWithin (buf : List Byte) (f : List Byte → Reply) (s : State) :
    OutcomeWithin s (finish ((filterResponse params buf s).map f)) := by
  rw [filterResponse_quiet]
  exact outcomeWithin_still rfl

theorem execNotification_outcomeWithin (b : Byte) (s : State) : OutcomeWithin s (execNotification b s) := by
  rw [execNotification, filterLoop_quiet, ite_self]
  exact outcomeWithin_still rfl

theorem execRomCode_outcomeWithin (rom : List Byte) (s : State) : OutcomeWithin s (execRomCode rom s) := by
  refine outcomeWithin_guarded (outcomeWithin_still ?_)
  cases validate params rom 0 <;> rfl

/-- Steps 6 to 8 make no call (R132 to R134), so the bound is that of steps 1 to 5. -/
theorem execSearchNext_outcomeWithin (s : State) : OutcomeWithin s (execSearchNext s) := by
  refine CallsWithin.finish (n := 50) ?_ (by omega)
  rw [CallsWithin, (searchNext_agrees s).port]
  exact (searchRead_runs_counted s).callsWithin

/-- Settles O46: the longest instruction is the search, with two fallbacks in each reset: 21 calls of the first
reset, 9 of the exchange, 20 of the trailing reset. -/
theorem transportCallsAreBounded : Obligations.TransportCallsAreBounded := by
  unfold Obligations.TransportCallsAreBounded
  intro i s
  show OutcomeWithin s (exec i s)
  cases i
  case searchNext => exact execSearchNext_outcomeWithin s
  case busReset => exact ((resetBus_runs s).callsWithin.map _).finish (by omega)
  case busDetect => exact ((detect_runs .normal s).callsWithin.map _).finish (by omega)
  case busLevel l => exact ((changeLevel_runs l s).callsWithin.map _).finish (by omega)
  case status b => exact ((statusOutcome_runs .normal b s).callsWithin.map _).finish (by omega)
  case crcNew | crcCalc | searchNew => exact fun t h => by cases h; exact Nat.le_add_right _ 50
  case encode | decode => exact outcomeWithin_guarded (outcomeWithin_still rfl)
  case reserved9 | reserved10 | reserved11 | reserved12 | reserved13 | reserved14 | reserved15 => exact fun t h => by cases h
  case cmdModeData | cmdModeCommand => exact switchMode_outcomeWithin _ s
  case breakFiller => exact ((emulateBreak_callsWithin s).map _).finish (by omega)
  case cmdBusReset | cmdReset | cfgSlew | cfgWrite1Low | cfgSampleOffset | probeBaudRead | probeBitTest | cmdPulseTerminate |
      cmdChmodPulse | cfgPulse5VInfinite | cmdSearchRom | cmdSearchAlarm | cmdSearchAccelOn | cmdSearchAccelOff =>
    exact sendByte_outcomeWithin _ _ s
  case frameByte | commFormat | configFormat => exact outcomeWithin_guarded (sendByte_outcomeWithin _ _ s)
  case resp5 | resp17 => exact outcomeWithin_guarded (filter_outcomeWithin _ _ s)
  case confirmNormal | confirmPulse => exact filter_outcomeWithin _ _ s
  case notification b => exact execNotification_outcomeWithin b s
  case romCode rom => exact execRomCode_outcomeWithin rom s

end Sys2Proof.Machine

/-! ## Writes and reads of a search that makes no fallback (R192) -/

namespace Sys2Proof.Machine

/-! ### The event of a call -/

/-- The call an event records, complete or cut short. -/
def Event.call : Event → Call
  | .write B => .write B
  | .read bs => .read bs.length
  | .setBaud r => .setBaud r
  | .delay ms => .delay ms
  | .cut c _ _ => c

def Call.isWrite : Call → Bool
  | .write _ => true
  | .read _ | .setBaud _ | .delay _ => false

def Call.isRead : Call → Bool
  | .read _ => true
  | .write _ | .setBaud _ | .delay _ => false

def Call.isBaud : Call → Bool
  | .setBaud _ => true
  | .write _ | .read _ | .delay _ => false

theorem isWriteEvent_eq (e : Event) : isWriteEvent e = e.call.isWrite := by
  cases e with
  | cut c d why => cases c <;> rfl
  | write | read | setBaud | delay => rfl

theorem isReadEvent_eq (e : Event) : isReadEvent e = e.call.isRead := by
  cases e with
  | cut c d why => cases c <;> rfl
  | write | read | setBaud | delay => rfl

theorem isBaudEvent_eq (e : Event) : isBaudEvent e = e.call.isBaud := by
  cases e with
  | cut c d why => cases c <;> rfl
  | write | read | setBaud | delay => rfl

/-- A call adds one event, its own, however it ends. -/
theorem transport_adds (c : Call) (s : State) : ∃ e, Adds s (transport c s).state [e] ∧ e.call = c := by
  rcases transport_cases c s with h | ⟨k, d, -, h⟩ | ⟨d, h⟩ <;> rw [h]
  · refine ⟨c.event (s.port.answer c), ⟨s.port.complete_event c, s.port.complete_calls c⟩, ?_⟩
    cases c with
    | read n => exact congrArg Call.read (s.port.incoming_length n)
    | write | setBaud | delay => rfl
  · obtain ⟨history, calls⟩ := s.port.cut_history c d (.raised (.io k))
    exact ⟨_, ⟨history, calls⟩, rfl⟩
  · obtain ⟨history, calls⟩ := s.port.cut_history c d .abandoned
    exact ⟨_, ⟨history, calls⟩, rfl⟩

/-! ### What a procedure spends on a path without a rate change -/

section
variable {α β : Type} {b b' b'' : Bus} {w w' r r' : Nat} {s : State}

/-- Started with the controller's registers at `b`, the procedure makes at most `w` writes and `r` reads, and leaves the
registers at `b'` if it returns; unless it changes the rate, of which nothing is said. -/
def Spends (b b' : Bus) (w r : Nat) (s : State) (x : Res α) : Prop :=
  ∃ es, Adds s x.state es ∧ (s.bus = b → (∀ e ∈ es, isBaudEvent e = false) →
    es.countP isWriteEvent ≤ w ∧ es.countP isReadEvent ≤ r ∧ ∀ a t, x = .ok a t → t.bus = b')

theorem Spends.ok {u : State} (a : α) (port : u.port = s.port) (bus : s.bus = b → u.bus = b') :
    Spends b b' 0 0 s (.ok a u) :=
  ⟨[], .of_port_eq port, fun start _ => ⟨Nat.le_refl _, Nat.le_refl _, fun _ _ h => by cases h; exact bus start⟩⟩

theorem Spends.stop (why : Stop) : Spends b b' 0 0 s (.stop why s : Res α) :=
  ⟨[], .of_port_eq rfl, fun _ _ => ⟨Nat.le_refl _, Nat.le_refl _, fun _ _ h => by cases h⟩⟩

theorem Spends.mono {x : Res α} (h : Spends b b' w r s x) (hw : w ≤ w') (hr : r ≤ r') : Spends b b' w' r' s x := by
  obtain ⟨es, added, cost⟩ := h
  refine ⟨es, added, fun start quiet => ?_⟩
  obtain ⟨writes, reads, bus⟩ := cost start quiet
  exact ⟨writes.trans hw, reads.trans hr, bus⟩

theorem Spends.bind {x : Res α} {f : α → State → Res β} (h : Spends b b' w r s x)
    (hf : ∀ a t, Spends b' b'' w' r' t (f a t)) : Spends b b'' (w + w') (r + r') s (x.bind f) := by
  obtain ⟨as, before, cost⟩ := h
  cases x with
  | stop why t =>
    refine ⟨as, before, fun start quiet => ?_⟩
    obtain ⟨writes, reads, -⟩ := cost start quiet
    exact ⟨by omega, by omega, fun _ _ h => by cases h⟩
  | ok a t =>
    obtain ⟨bs, after, cost'⟩ := hf a t
    refine ⟨as ++ bs, before.trans after, fun start quiet => ?_⟩
    obtain ⟨quietBefore, quietAfter⟩ := List.forall_mem_append.1 quiet
    obtain ⟨writes, reads, bus⟩ := cost start quietBefore
    obtain ⟨writes', reads', bus'⟩ := cost' (bus a t rfl) quietAfter
    rw [List.countP_append, List.countP_append]
    exact ⟨by omega, by omega, bus'⟩

theorem Spends.map (f : α → β) {x : Res α} (h : Spends b b' w r s x) : Spends b b' w r s (x.map f) :=
  h.bind (w' := 0) (r' := 0) fun a _ => Spends.ok (f a) rfl id

/-- The registers at the start may be assumed to be `b`: elsewhere nothing is claimed but that calls add events. -/
theorem Spends.of_start {x : Res α} (h : Precise s x) (k : s.bus = b → Spends b b' w r s x) : Spends b b' w r s x := by
  by_cases start : s.bus = b
  · exact k start
  · cases x with
    | ok a t =>
      obtain ⟨es, added, -⟩ := h
      exact ⟨es, added, fun e => absurd e start⟩
    | stop why t =>
      obtain ⟨es, added, -⟩ := h
      exact ⟨es, added, fun e => absurd e start⟩

end

/-! ### The calls -/

theorem transport_spends (b : Bus) (c : Call) (s : State) :
    Spends b b ([c].countP Call.isWrite) ([c].countP Call.isRead) s (transport c s) := by
  obtain ⟨e, added, rfl⟩ := transport_adds c s
  refine ⟨[e], added, fun start _ => ⟨?_, ?_, fun a t h => (transport_ok_bus h).trans start⟩⟩
  · rw [List.countP_singleton, List.countP_singleton, isWriteEvent_eq]
  · rw [List.countP_singleton, List.countP_singleton, isReadEvent_eq]

theorem callAll_spends (b : Bus) (cs : List Call) (a : List Byte) (s : State) :
    Spends b b (cs.countP Call.isWrite) (cs.countP Call.isRead) s (callAll cs a s) := by
  induction cs generalizing a s with
  | nil => exact Spends.ok a rfl id
  | cons c cs ih =>
    rw [← List.singleton_append, List.countP_append, List.countP_append]
    exact (transport_spends b c s).bind fun a' t => ih a' t

theorem read_spends (b : Bus) (n : Nat) (s : State) : Spends b b 0 1 s (transport (.read n) s) := transport_spends b _ s

theorem write_spends (b : Bus) (B : List Byte) (s : State) : Spends b b 1 0 s (emit (.write B) s) :=
  (transport_spends b (.write B) s).map _

theorem readFiltered_spends (b : Bus) (n : Nat) (s : State) : Spends b b 0 1 s (readFiltered params n s) :=
  (read_spends b n s).bind (w' := 0) (r' := 0) fun buf t => by
    rw [filterResponse_quiet]
    exact Spends.ok buf rfl id

/-! ### The fallback changes the rate (R106, R107) -/

/-- A call of the procedure, made or cut short, was a rate change. -/
def ChangesRate {α : Type} (s : State) (x : Res α) : Prop := ∃ es, Adds s x.state es ∧ ∃ e ∈ es, isBaudEvent e = true

theorem ChangesRate.spends {α : Type} {s : State} {x : Res α} (h : ChangesRate s x) (b b' : Bus) : Spends b b' 0 0 s x := by
  obtain ⟨es, added, e, mem, baud⟩ := h
  exact ⟨es, added, fun _ quiet => absurd baud (by rw [quiet e mem]; decide)⟩

/-- The first call of a `BUS_DETECT` lowers the rate. -/
theorem detect_changesRate (s : State) : ChangesRate s (detect params s) := by
  rw [ChangesRate, detect_eq, Res.state_map, detectCalls, callAll]
  obtain ⟨e, first, isBaud⟩ := transport_adds (.setBaud 2400) (s.setMode .command)
  have baud : isBaudEvent e = true := by rw [isBaudEvent_eq, isBaud]; rfl
  cases h : transport (.setBaud 2400) (s.setMode .command) with
  | stop why t =>
    rw [h] at first
    exact ⟨[e], ⟨first.history, first.calls⟩, e, List.mem_singleton_self e, baud⟩
  | ok a t =>
    rw [h] at first
    obtain ⟨es, rest, -⟩ := callAll_spends t.bus detectCalls.tail a t
    obtain ⟨history, calls⟩ := first.trans rest
    exact ⟨e :: es, ⟨history, calls⟩, e, List.mem_cons_self, baud⟩

theorem resync_state (s : State) : (resync params s).state = (detect params s).state := by
  unfold resync
  cases detect params s with
  | stop why t => rfl
  | ok accepted t => cases accepted <;> rfl

theorem resync_spends (b b' : Bus) (s : State) : Spends b b' 0 0 s (resync params s) :=
  ChangesRate.spends (by rw [ChangesRate, resync_state]; exact detect_changesRate s) b b'

/-! ### The procedures -/

theorem ensureMode_spends (b : Bus) (m : Mode) (s : State) :
    Spends b { b with mode := m } (modeSwitchCalls b.mode m).length 0 s (ensureMode params m s) := by
  refine Spends.of_start (ensureMode_runs .normal m s).precise ?_
  rintro rfl
  rw [modeSwitchCalls_length, ensureMode]
  split
  · next same => exact Spends.ok () rfl fun _ => by rw [← same]
  · exact (write_spends s.bus _ s).bind (w' := 0) (r' := 0) fun _ t => Spends.ok () rfl fun bus => by rw [← bus]; rfl

theorem sendIn_spends (b : Bus) (m : Mode) (B : List Byte) (s : State) :
    Spends b { b with mode := m } ((modeSwitchCalls b.mode m).length + 1) 0 s (sendIn params m B s) :=
  (ensureMode_spends b m s).bind fun _ t => write_spends _ B t

theorem statusOutcome_spends (b : Bus) (status : Byte) (s : State) :
    Spends b b 0 0 s (statusOutcome params status s) := by
  unfold statusOutcome
  split
  · exact Spends.ok _ rfl id
  · exact (resync_spends b b s).map _

theorem resetTail_spends (b : Bus) (s : State) :
    Spends b { b with mode := .command } ((modeSwitchCalls b.mode .command).length + 1) 1 s (resetTail s) :=
  (sendIn_spends b .command _ s).bind (w' := 0) fun _ t =>
    (read_spends _ 1 t).bind (w' := 0) (r' := 0) fun _ u => statusOutcome_spends _ _ u

theorem toNormal_spends (b : Bus) (s : State) : Spends b b 1 1 s (toLevel params .normal s) := by
  rw [toLevel_eq]
  exact (callAll_spends b (levelExchange .normal) [] s).map _

/-- Without a fallback, the cascade of a reset was accepted: `BUS.level` is Normal (R110). -/
theorem cascade_spends {b : Bus} (level : b.level ≠ .normal) (s : State) :
    Spends b readyBus ((modeSwitchCalls b.mode .command).length + 1) 1 s (changeLevel params .normal s) := by
  refine Spends.of_start (changeLevel_runs .normal s).precise ?_
  rintro rfl
  rw [changeLevel, if_neg (Ne.symm level)]
  refine (ensureMode_spends s.bus .command s).bind (r' := 1) fun _ t =>
    (toNormal_spends _ t).bind (w' := 0) (r' := 0) fun accepted u => ?_
  cases accepted with
  | true => exact Spends.ok _ rfl fun bus => by rw [State.setLevel_bus, bus]; rfl
  | false => exact (resync_spends _ readyBus u).bind (w' := 0) (r' := 0) fun _ v => Spends.ok _ rfl id

/-- At level Normal a reset is its tail (R103). -/
theorem resetBus_spends_of_normal {b : Bus} (level : b.level = .normal) (s : State) :
    Spends b readyBus ((modeSwitchCalls b.mode .command).length + 1) 1 s (resetBus params s) := by
  refine Spends.of_start (resetBus_runs s).precise ?_
  rintro rfl
  rw [resetBus_eq, changeLevel_same s .normal level.symm, Res.bind_ok, readyBus, ← level]
  exact resetTail_spends s.bus s

theorem resetBus_spends (b : Bus) (s : State) : Spends b readyBus 3 2 s (resetBus params s) := by
  have switch : (modeSwitchCalls b.mode .command).length ≤ 1 := by rw [modeSwitchCalls_length]; split <;> omega
  by_cases level : b.level = .normal
  · exact (resetBus_spends_of_normal level s).mono (by omega) (by omega)
  · exact ((cascade_spends level s).bind (w' := 1) (r' := 1) fun _ t => resetTail_spends readyBus t).mono (by omega) (by omega)

/-! ### The search -/

/-- The registers from the frame to the response of a search (R132). -/
def dataBus : Bus := { mode := .data, level := .normal }

theorem selectSearch_spends (s : State) : Spends readyBus readyBus 4 0 s (selectSearch params s) :=
  (sendIn_spends readyBus .data _ s).bind (w' := 2) (r' := 0) fun _ t => sendIn_spends dataBus .command _ t

theorem sendFrame_spends (s : State) : Spends readyBus dataBus 2 0 s (sendFrame params s) := sendIn_spends readyBus .data _ s

theorem readSearchResponse_spends (s : State) : Spends dataBus readyBus 3 2 s (readSearchResponse params s) :=
  (readFiltered_spends dataBus 17 s).bind (w' := 3) (r' := 1) fun _ t =>
    (sendIn_spends dataBus .command _ t).bind (w' := 1) (r' := 1) fun _ u =>
      (resetBus_spends_of_normal (b := readyBus) rfl u).map _

theorem acceptRom_spends (b : Bus) (d : Decoded) (s : State) : Spends b b 0 0 s (acceptRom params d s) := by
  rcases acceptRom_cases d s with ⟨-, e⟩ | ⟨reason, -, e⟩ <;> rw [e]
  · exact Spends.ok _ rfl id
  · exact Spends.stop _

theorem searchExchange_spends (s : State) : Spends readyBus readyBus 9 2 s (searchExchange params s) :=
  (selectSearch_spends s).bind (w' := 5) (r' := 2) fun _ t => (sendFrame_spends t).bind (w' := 3) fun _ u =>
    (readSearchResponse_spends u).bind (w' := 0) (r' := 0) fun d v => acceptRom_spends readyBus d v

theorem searchNext_spends (b : Bus) {s : State} (active : s.srch.exhausted = false) :
    Spends b readyBus 12 4 s (searchNext params s) := by
  rw [searchNext_of_active active]
  refine (resetBus_spends b s).bind (w' := 9) (r' := 2) fun present t => ?_
  cases present with
  | true => exact searchExchange_spends t
  | false => exact (Spends.ok _ rfl id).mono (Nat.zero_le _) (Nat.zero_le _)

/-- Settles O37: 3 writes and 2 reads of the first reset, which leaves the level Normal; 8 and 1 of the exchange; 1 and 1
of the trailing reset. An Exhausted search makes no call. -/
theorem searchNextIsBoundedWithoutResync : Obligations.SearchNextIsBoundedWithoutResync := by
  unfold Obligations.SearchNextIsBoundedWithoutResync
  intro s t es h hist quiet
  have spends : ∃ b', Spends s.bus b' 12 4 s (searchNext params s) := by
    cases exhausted : s.srch.exhausted with
    | false => exact ⟨readyBus, searchNext_spends s.bus exhausted⟩
    | true =>
      rw [searchNext_of_exhausted exhausted]
      exact ⟨s.bus, (Spends.ok _ rfl id).mono (Nat.zero_le _) (Nat.zero_le _)⟩
  obtain ⟨b', added, adds, cost⟩ := spends
  rw [(finish_agrees h).port, adds.history] at hist
  obtain rfl := List.append_cancel_left hist
  obtain ⟨writes, reads, -⟩ := cost rfl quiet
  exact ⟨writes, reads⟩

end Sys2Proof.Machine
